-- ==== Sys2Proof/Word.lean ====
section
/-! DEFINITION. The word types of the device: bytes of the input buffer and 32-bit registers
(spec/10_state.md R21, R22). -/

namespace Sys2Proof

/-- One byte of `IN_BUF` or of an LEB128 stream (R22, R92). -/
abbrev Byte := BitVec 8

/-- One 32-bit register or command word (R21, R80). -/
abbrev Word := BitVec 32

end Sys2Proof
end

