-- ==== Sys2Proof/Config.lean ====
section
/-! DEFINITION. What does not change while the machine runs (spec/00_scope.md R7 to R9, R232): the fixed
constants, the two platform parameters, and the free values. The opaque constants have no body: nothing can
prove a value of one. -/

namespace Sys2Proof.Config

/-! ## Fixed constants (R7, R8) -/

/-- `HEADS_PER_CYLINDER` (R7). -/
abbrev headsPerCylinder : Nat := 16

/-- `SECTORS_PER_TRACK` (R7). -/
abbrev sectorsPerTrack : Nat := 63

/-- `MBR_BYTES` (R7), also the size of `IN_BUF` (R22). -/
abbrev mbrBytes : Nat := 512

/-- `ENTRY_BYTES` (R7). -/
abbrev entryBytes : Nat := 16

/-- `ENTRY_COUNT` (R7). -/
abbrev entryCount : Nat := 4

/-- `SIG_OFFSET` (R7). -/
abbrev sigOffset : Nat := 440

/-- `TABLE_OFFSET` (R7). -/
abbrev tableOffset : Nat := 446

/-- `SECTOR_BYTES`, the size of one counted sector (R7). -/
abbrev sectorBytes : Nat := 512

/-- `UNIT_DIVISOR` (R7). -/
abbrev unitDivisor : Nat := 1024

/-- `VARINT_MAX_BYTES` (R8). -/
abbrev varintMaxBytes : Nat := 10

/-- The size of the register window in bytes (R21). -/
abbrev windowBytes : Nat := 0x400

/-! ## Parameters -/

/-- `P_KNOWN_TYPE` at every code but 0x99: left open by the spec (R9, N1). Log 3. -/
opaque knownTypeElse : Byte → Bool

/-- `P_KNOWN_TYPE`, the partition-type mapping's membership verdict. Its one constraint is that 0x99 is not in
the mapping (R9). Log 3. -/
def knownType (t : Byte) : Bool :=
  if t = 0x99#8 then false else knownTypeElse t

/-- `P_BASE` in units of 1024 bytes: the platform chooses it (R71). Log 4. -/
opaque windowBlock : Nat

/-- `P_BASE`, the window's base address, aligned to 1024 bytes (R71). Log 4. -/
def windowBase : Nat := windowBytes * windowBlock

/-! ## Free value -/

/-- What byte `offset` of `IN_BUF` holds after reset number `epoch` until the host writes it: one unconstrained
draw per byte, fixed until written (R22, R230). Log 2. -/
opaque inBufDraw : (epoch offset : Nat) → Byte

end Sys2Proof.Config
end

