-- ==== Sys2Proof/Syntax.lean ====
section
/-! DEFINITION. The device's commands (spec/30_encoding.md R82), and what the outside world can do to it: a host
bus access (R97, R99) or the platform's reset (spec/70_reset_and_hazards.md R233). -/

namespace Sys2Proof

/-- The six commands, one per row of spec/opcode_table.json (R4, R82). A command word has no operand field (R80):
the operands are in the operand registers and `IN_BUF` (R28). -/
inductive Instr where
  /-- `VARINT_ENCODE`, OP 0x1 (R111). -/
  | varintEncode
  /-- `VARINT_DECODE`, OP 0x2 (R114). -/
  | varintDecode
  /-- `CHS_TO_LBA`, OP 0x3 (R131). -/
  | chsToLba
  /-- `LBA_TO_CHS`, OP 0x4 (R132). -/
  | lbaToChs
  /-- `ENTRY_DECODE`, OP 0x5 (R160). -/
  | entryDecode
  /-- `MBR_DECODE`, OP 0x6 (R181). -/
  | mbrDecode
  deriving DecidableEq, Repr

/-- The kind of a host bus access (R97): a write carries its data. -/
inductive AccessKind where
  | read
  | write (data : Word)
  deriving DecidableEq, Repr

/-- One host bus access: (kind, offset from `P_BASE`, width in bits, data), as R99 writes it. Widths other than
8, 16 and 32 bits can be written down too: the window refuses them (R66). -/
structure BusAccess where
  kind : AccessKind
  offset : Nat
  width : Nat
  deriving DecidableEq, Repr

/-- The number of bytes an access covers. -/
def BusAccess.bytes (a : BusAccess) : Nat := a.width / 8

/-- One input of the machine: a host access, or the platform's reset (R233). -/
inductive Input where
  | access (a : BusAccess)
  | reset
  deriving DecidableEq, Repr

end Sys2Proof
end

