-- ==== Sys2Proof/WellFormed.lean ====
section
/-! DEFINITION. What can be written down in the host-script notation of spec/30_encoding.md R97. The machine does
not rest on these checks: what it refuses is spec/20_memory.md R66, in Machine/Window.lean. -/

namespace Sys2Proof

/-- Every command is well formed: a command word has no operand field that could be wrong (R80, R86). -/
def Instr.wellFormed : Instr → Bool
  | .varintEncode => true
  | .varintDecode => true
  | .chsToLba => true
  | .lbaToChs => true
  | .entryDecode => true
  | .mbrDecode => true

/-- The notation has 8-, 16- and 32-bit accesses only (R97). -/
def BusAccess.widthWellFormed (a : BusAccess) : Bool :=
  a.width == 8 || a.width == 16 || a.width == 32

/-- Offsets are those of the window, 0x000 to 0x3FF (R60). -/
def BusAccess.offsetWellFormed (a : BusAccess) : Bool :=
  decide (a.offset < Config.windowBytes)

/-- The value written fits the access's width (R64). -/
def BusAccess.dataWellFormed (a : BusAccess) : Bool :=
  match a.kind with
  | .read => true
  | .write v => decide (v.toNat < 2 ^ a.width)

/-- An access the notation of R97 can write. -/
def BusAccess.wellFormed (a : BusAccess) : Bool :=
  a.widthWellFormed && a.offsetWellFormed && a.dataWellFormed

/-- An input the outside world can give: an access of R97, or a reset (R233). -/
def Input.wellFormed : Input → Bool
  | .access a => a.wellFormed
  | .reset => true

end Sys2Proof
end

