-- ==== Sys2Proof/Decode.lean ====
section
/-! DEFINITION. The command word `CMD32` (spec/30_encoding.md R80 to R86): its decoder, total on every 32-bit
word, and its encoder. -/

namespace Sys2Proof

/-- `CMD32.OP`, bits 3:0 (R80). -/
def opField (w : Word) : BitVec 4 := w.extractLsb' 0 4

/-- `CMD32.RSV`, bits 31:4, must be zero (R80). -/
def rsvField (w : Word) : BitVec 28 := w.extractLsb' 4 28

/-- Why a word is no command (R83). -/
inductive DecodeError where
  /-- `RSV` is not zero. -/
  | reservedBits (w : Word)
  /-- `OP` is 0x0 or 0x7 to 0xF. -/
  | unassignedOp (op : BitVec 4)
  deriving DecidableEq, Repr

/-- The decoding of R81, in its order: the reserved bits first, then `OP`. -/
def decode (w : Word) : Except DecodeError Instr :=
  if rsvField w ≠ 0#28 then .error (.reservedBits w)
  else
    match (opField w).toNat with
    | 1 => .ok .varintEncode
    | 2 => .ok .varintDecode
    | 3 => .ok .chsToLba
    | 4 => .ok .lbaToChs
    | 5 => .ok .entryDecode
    | 6 => .ok .mbrDecode
    | _ => .error (.unassignedOp (opField w))

/-- A command's opcode (R82). -/
def Instr.opcode : Instr → BitVec 4
  | .varintEncode => 0x1#4
  | .varintDecode => 0x2#4
  | .chsToLba => 0x3#4
  | .lbaToChs => 0x4#4
  | .entryDecode => 0x5#4
  | .mbrDecode => 0x6#4

/-- A command's word: `OP` in bits 3:0 and zeros above (R80, R82). -/
def encode (i : Instr) : Word := 0#28 ++ i.opcode

/-- The host's question: the command the decoder reads from an instruction of `nbits` bits whose bits are `w`.
Every command word is exactly 32 bits (R85), so no other length, and no wider number, is one. -/
def decodeTableWord (nbits w : Nat) : Option Instr :=
  if nbits = 32 ∧ w < 2 ^ 32 then
    match decode (BitVec.ofNat 32 w) with
    | .ok i => some i
    | .error _ => none
  else none

end Sys2Proof
end

