-- ==== Sys2Proof/Machine/State.lean ====
section
/-! DEFINITION. The architectural state of MBRDEC (spec/10_state.md R39), the model's own fields beside it, the
state after reset (spec/70_reset_and_hazards.md R230), and the reasons a step can stop. -/

namespace Sys2Proof.Machine

/-- The bytes of `IN_BUF` the host has written since reset, as (offset, byte) pairs in one canonical form: offsets
strictly rising, all below 512. An unlisted offset has no written value here; the device reads it as its draw
(R22; `State.bufByte`). Log 9. -/
abbrev Memory := List Host.Cell

/-- One entry result block `ENT[k]`: eight 32-bit registers (R32). -/
structure EntBlock where
  info : Word
  schs : Word
  echs : Word
  lba : Word
  count : Word
  bytesLo : Word
  bytesHi : Word
  unit : Word
  deriving DecidableEq, Repr

/-- A block after reset: all registers 0 (R32, R230). -/
def EntBlock.zero : EntBlock :=
  { info := 0, schs := 0, echs := 0, lba := 0, count := 0, bytesLo := 0, bytesHi := 0, unit := 0 }

/-- The four entry result blocks `ENT[0..3]` (R31). -/
structure EntFile where
  e0 : EntBlock
  e1 : EntBlock
  e2 : EntBlock
  e3 : EntBlock
  deriving DecidableEq, Repr

/-- The machine's state. The first fields are the architectural state of R39; the last three are the model's. -/
structure State where
  /-- `IN_BUF` (R22), as the bytes written since reset. -/
  inBuf : Memory
  /-- `IN_LEN` (R23). -/
  inLen : Word
  /-- `CMD` (R24). -/
  cmd : Word
  /-- `STATUS` (R25). -/
  status : Word
  /-- `OPA_LO` (R26). -/
  opaLo : Word
  /-- `OPA_HI` (R26). -/
  opaHi : Word
  /-- `OPB` (R26). -/
  opb : Word
  /-- `OPC` (R26). -/
  opc : Word
  /-- `RESA_LO` (R27). -/
  resaLo : Word
  /-- `RESA_HI` (R27). -/
  resaHi : Word
  /-- `RESB` (R27). -/
  resb : Word
  /-- `RESC` (R27). -/
  resc : Word
  /-- `SIG` (R30). -/
  sig : Word
  /-- `ENT[0..3]` (R31). -/
  ent : EntFile
  /-- The host-fault mark: the host made a refused access (R39, R66). No step clears it, a reset within the run
  included (R66, R218). Log 8. -/
  hostFault : Bool
  /-- The model's: the inputs still to be taken, the next one first. Log 1. -/
  inputs : List Input
  /-- The model's: what the host's last read returned; nothing before the first read and after a refused one
  (R66). Log 7. -/
  lastRead : Option Word
  /-- The model's: the number of the last reset, which selects the draws of `IN_BUF` (R230). Log 2. -/
  drawEpoch : Nat
  deriving DecidableEq, Repr

/-- The state after reset (R230): every register 0, the mark clear, no byte of `IN_BUF` written. The model's own
fields: no input to take, nothing read, reset number 0 (DESIGN CHOICE, log 1, log 2 and log 7). -/
def State.reset : State where
  inBuf := []
  inLen := 0
  cmd := 0
  status := 0
  opaLo := 0
  opaHi := 0
  opb := 0
  opc := 0
  resaLo := 0
  resaHi := 0
  resb := 0
  resc := 0
  sig := 0
  ent := { e0 := .zero, e1 := .zero, e2 := .zero, e3 := .zero }
  hostFault := false
  inputs := []
  lastRead := none
  drawEpoch := 0

/-- Why a step can fault: there is no such reason, since every step has a next state (R219). The only fault of the
model is the host fault, which `State.hostFault` records (R66, R218); the errors of R201 are results in `STATUS`. -/
inductive Fault where
  deriving DecidableEq, Repr

/-- Why a step can be refused. -/
inductive Refusal where
  /-- Raised by `exec` alone, for a command that has no meaning yet; no arm raises it now. Safe. -/
  | notModelled (mnemonic : String)
  deriving DecidableEq, Repr

end Sys2Proof.Machine
end

