-- ==== Sys2Proof/Machine/Flags.lean ====
section
/-! DEFINITION. Every flag the device computes (spec/10_state.md R35): the error codes and the `STATUS` word
(spec/60_exceptions.md R201, R203), and an entry's status class, `EMPTY` and `KNOWN`
(spec/43_partition_entry.md R150 to R152). -/

namespace Sys2Proof.Machine

/-- The error codes of R201 that a command can record. -/
inductive ErrCode where
  | none
  | length
  | illegalCommand
  | range
  | malformedVarint
  | varintOverflow
  deriving DecidableEq, Repr

/-- The number in `STATUS.ERR` (R201). -/
def ErrCode.code : ErrCode → BitVec 4
  | .none => 0#4
  | .length => 1#4
  | .illegalCommand => 2#4
  | .range => 3#4
  | .malformedVarint => 4#4
  | .varintOverflow => 5#4

/-- The whole `STATUS` word of R203, bit 31 first: `OP` at 15:12, `OVF` at 9, `MALF` at 8, `ERR` at 7:4, and
`VALID` at 0, which is 1 exactly when there is no error; reserved bits 0 (R25). -/
def statusWord (op : BitVec 4) (err : ErrCode) (malf ovf : Bool) : Word :=
  0#16 ++ op ++ 0#2 ++ BitVec.ofBool ovf ++ BitVec.ofBool malf ++ err.code ++ 0#3
    ++ BitVec.ofBool (err == .none)

/-! ## The fields of a `STATUS` word (R25) -/

/-- `STATUS.VALID`, bit 0. -/
def statusValid (w : Word) : Bool := w.getLsbD 0

/-- `STATUS.ERR`, bits 7:4. -/
def statusErr (w : Word) : BitVec 4 := w.extractLsb' 4 4

/-- `STATUS.MALF`, bit 8. -/
def statusMalf (w : Word) : Bool := w.getLsbD 8

/-- `STATUS.OVF`, bit 9. -/
def statusOvf (w : Word) : Bool := w.getLsbD 9

/-- `STATUS.OP`, bits 15:12. -/
def statusOp (w : Word) : BitVec 4 := w.extractLsb' 12 4

/-! ## The flags of an entry (R150 to R152) -/

/-- The three classes of a status byte (R150). -/
inductive StatusClass where
  | inactive
  | invalid
  | bootable
  deriving DecidableEq, Repr

/-- The number in `ENT_INFO.SCLASS`; 3 is never produced (R33, R150). -/
def StatusClass.code : StatusClass → BitVec 2
  | .inactive => 0#2
  | .invalid => 1#2
  | .bootable => 2#2

/-- Status classification (R150): Inactive for 0x00, Bootable where bit 7 is set, else Invalid. -/
def statusClass (st : Byte) : StatusClass :=
  if st = 0#8 then .inactive else if st.getLsbD 7 then .bootable else .invalid

/-- Whether the mapping contains the type (R151). -/
def typeKnown (t : Byte) : Bool := Config.knownType t

/-- Whether the type marks the entry as empty (R152). -/
def typeEmpty (t : Byte) : Bool := t == 0#8

end Sys2Proof.Machine
end

