-- ==== Sys2Proof/Machine/Operands.lean ====
section
/-! DEFINITION. The operand forms of the six commands (spec/10_state.md R28, R29; spec/30_encoding.md R86) and the
little-endian fields of the buffer (spec/00_scope.md R13, spec/20_memory.md R61). -/

namespace Sys2Proof.Machine

/-- `OPA`, the 64-bit value `(OPA_HI, OPA_LO)` with `OPA_HI` in the high bits (R26). -/
def State.opa (s : State) : BitVec 64 := s.opaHi ++ s.opaLo

/-- `RESA`, the 64-bit value `(RESA_HI, RESA_LO)` (R27). -/
def State.resa (s : State) : BitVec 64 := s.resaHi ++ s.resaLo

/-- The 80-bit packed operand of VARINT_DECODE, `(OPB[15:0], OPA_HI, OPA_LO)` (R86, R114). -/
def State.packedOperand (s : State) : BitVec 80 := s.opb.extractLsb' 0 16 ++ s.opaHi ++ s.opaLo

/-- `OPB[31:16]`, which VARINT_DECODE requires to be zero (R29). -/
def State.opbUpper (s : State) : BitVec 16 := s.opb.extractLsb' 16 16

/-- `le32` of R13: `b0` is the least significant byte. -/
def le32 (b0 b1 b2 b3 : Byte) : Word := b3 ++ b2 ++ b1 ++ b0

/-- Byte `j` of a word, bits `8j+7` to `8j` (R64). -/
def wordByte (v : Word) (j : Nat) : Byte := v.extractLsb' (8 * j) 8

end Sys2Proof.Machine
end

