-- ==== Sys2Proof/Machine/Ops.lean ====
section
/-! DEFINITION. The named operations over the buffer and the registers, and the one way a command ends: the
`STATUS` write of spec/60_exceptions.md R203, the device's only form of taking an exception. There is no return from
one (R208): the next `CMD` write replaces the whole register. -/

namespace Sys2Proof.Machine

/-! ## The written bytes of `IN_BUF` -/

/-- The byte listed at an offset, if the host has written it since reset. -/
def Memory.read : Memory → Nat → Option Byte
  | [], _ => none
  | (b, v) :: m, a => if a = b then some v else Memory.read m a

/-- Writes one byte, keeping the list in its canonical form. -/
def Memory.write : Memory → Nat → Byte → Memory
  | [], a, v => [(a, v)]
  | (b, w) :: m, a, v =>
    if a < b then (a, v) :: (b, w) :: m
    else if a = b then (a, v) :: m
    else (b, w) :: Memory.write m a v

/-- The canonical form: offsets strictly rising and inside `IN_BUF`. Log 9. -/
def Memory.wf : Memory → Bool
  | [] => true
  | [(a, _)] => decide (a < Config.mbrBytes)
  | (a, _) :: (b, w) :: m => decide (a < b) && Memory.wf ((b, w) :: m)

/-- Byte `IN_BUF[a]` as the core or the host reads it: the byte written last since reset, else the draw of that byte
(R22, R230). Log 2. -/
def State.bufByte (s : State) (a : Nat) : Byte :=
  match s.inBuf.read a with
  | some v => v
  | none => Config.inBufDraw s.drawEpoch a

/-- `MemRead(a, n)` of R13: `n` bytes from offset `a`, assembled little-endian as a natural number below `2^(8n)`. -/
def State.memRead (s : State) (a : Nat) : Nat → Nat
  | 0 => 0
  | n + 1 => s.memRead a n + (s.bufByte (a + n)).toNat * 2 ^ (8 * n)

/-- Writes one byte of `IN_BUF`. -/
def State.writeBufByte (s : State) (a : Nat) (v : Byte) : State :=
  { s with inBuf := s.inBuf.write a v }

/-- `MemWrite(a, n, v)` of R64: byte `j` of `v` goes to `IN_BUF[a+j]` for `j < n`. -/
def State.memWrite (s : State) (a : Nat) (v : Word) : Nat → State
  | 0 => s
  | n + 1 => (s.memWrite a v n).writeBufByte (a + n) (wordByte v n)

/-! ## The entry blocks -/

/-- Block `ENT[k]` (R31). -/
def EntFile.get (f : EntFile) : Fin 4 → EntBlock
  | 0 => f.e0
  | 1 => f.e1
  | 2 => f.e2
  | 3 => f.e3

/-- Replaces block `ENT[k]`. -/
def EntFile.set (f : EntFile) (k : Fin 4) (b : EntBlock) : EntFile :=
  match k with
  | 0 => { f with e0 := b }
  | 1 => { f with e1 := b }
  | 2 => { f with e2 := b }
  | 3 => { f with e3 := b }

/-! ## What a command writes -/

/-- Writes the four result registers, all of them (R27). -/
def State.setResults (s : State) (resa : BitVec 64) (resb resc : Word) : State :=
  { s with resaLo := resa.extractLsb' 0 32, resaHi := resa.extractLsb' 32 32, resb := resb, resc := resc }

/-- Writes block `ENT[k]`, all eight registers (R159). -/
def State.setEnt (s : State) (k : Fin 4) (b : EntBlock) : State :=
  { s with ent := s.ent.set k b }

/-- Writes `SIG` (R30). -/
def State.setSig (s : State) (v : Word) : State :=
  { s with sig := v }

/-- The one write of the whole `STATUS` register that ends every command (R203). -/
def State.setStatus (s : State) (op : BitVec 4) (err : ErrCode) (malf ovf : Bool) : State :=
  { s with status := statusWord op err malf ovf }

/-- A command that completes: `VALID` = 1, `ERR` = `MALF` = `OVF` = 0 (R203). -/
def complete (op : BitVec 4) (s : State) : Host.Outcome State Fault Refusal :=
  .next (s.setStatus op .none false false)

/-- `raise <Error>` of R14, for the errors found before any result is written (R205): the command ends, writes
`STATUS` and nothing else. -/
def raiseError (op : BitVec 4) (err : ErrCode) (s : State) : Host.Outcome State Fault Refusal :=
  .next (s.setStatus op err false false)

/-! ## The host-fault mark -/

/-- A refused host access (R66): the mark is set and no device state changes. A refused read returns no defined
value, so nothing stands in `lastRead` after it. Log 6. -/
def State.refuseAccess (s : State) (k : AccessKind) : State :=
  { s with
    hostFault := true
    lastRead := match k with
      | .read => none
      | .write _ => s.lastRead }

end Sys2Proof.Machine
end

