-- ==== Sys2Proof/Machine/Geometry.lean ====
section
/-! DEFINITION. The GeometryConverter (spec/42_geometry.md). -/

namespace Sys2Proof.Machine

/-- `chs_to_lba(c, h, s)` of R130, on mathematical integers. -/
def chsToLba (c h s : Nat) : Int :=
  c * (Config.headsPerCylinder * Config.sectorsPerTrack : Nat) + h * (Config.sectorsPerTrack : Nat) + (s - 1)

/-- A (cylinder, head, sector) triple of the converter, of no fixed width (R130, R132). -/
structure Chs where
  cylinder : Nat
  head : Nat
  sector : Nat
  deriving DecidableEq, Repr

/-- `lba_to_chs(l)` of R130. -/
def lbaToChs (l : Nat) : Chs :=
  { cylinder := l / (Config.sectorsPerTrack * Config.headsPerCylinder)
    head := l / Config.sectorsPerTrack % Config.headsPerCylinder
    sector := l % Config.sectorsPerTrack + 1 }

/-- `CHS_TO_LBA` (R131). The geometry is not validated (R134). -/
def execChsToLba (s : State) : Host.Outcome State Fault Refusal :=
  if s.opaHi ≠ 0#32 then raiseError 0x3#4 .range s
  else
    complete 0x3#4 <|
      s.setResults (BitVec.ofInt 64 (chsToLba s.opaLo.toNat s.opb.toNat s.opc.toNat)) 0 0

/-- `LBA_TO_CHS` (R132). -/
def execLbaToChs (s : State) : Host.Outcome State Fault Refusal :=
  if s.opaHi ≠ 0#32 then raiseError 0x4#4 .range s
  else
    let t := lbaToChs s.opaLo.toNat
    complete 0x4#4 <|
      s.setResults (BitVec.ofNat 64 t.cylinder) (BitVec.ofNat 32 t.head) (BitVec.ofNat 32 t.sector)

end Sys2Proof.Machine
end

