-- ==== Sys2Proof/Machine/Partition.lean ====
section
/-! DEFINITION. The PartitionEntryDecoder (spec/43_partition_entry.md) and the MbrDecoder (spec/44_mbr.md). -/

namespace Sys2Proof.Machine

/-! ## The sub-functions -/

/-- A CHS triple as an entry packs it: 10-bit cylinder, 8-bit head, 6-bit sector (R90). -/
structure ChsTriple where
  cyl : BitVec 10
  head : Byte
  sect : BitVec 6
  deriving DecidableEq, Repr

/-- `chs_unpack(c0, c1, c2)` of R153. -/
def chsUnpack (c0 c1 c2 : Byte) : ChsTriple :=
  { cyl := c1.extractLsb' 6 2 ++ c2, head := c0, sect := c1.extractLsb' 0 6 }

/-- `size_bytes(cnt)` of R155, exact. -/
def sizeBytes (cnt : Word) : Nat := cnt.toNat * Config.sectorBytes

/-- The binary units (R7, R156). -/
inductive SizeUnit where
  | b
  | kib
  | mib
  | gib
  | tib
  deriving DecidableEq, Repr

/-- The unit's index, 0 to 4 (R7). -/
def SizeUnit.index : SizeUnit → Nat
  | .b => 0
  | .kib => 1
  | .mib => 2
  | .gib => 3
  | .tib => 4

/-- `size_unit(b)` of R156: the first unit whose next threshold is above `b`; a value equal to a threshold takes the
larger unit. -/
def sizeUnit (b : Nat) : SizeUnit :=
  if b < Config.unitDivisor then .b
  else if b < Config.unitDivisor ^ 2 then .kib
  else if b < Config.unitDivisor ^ 3 then .mib
  else if b < Config.unitDivisor ^ 4 then .gib
  else .tib

/-- The integer part of the scaled size (R157). The device stores `b` and `u`, which determine it. -/
def scaledWhole (b : Nat) (u : SizeUnit) : Nat := b >>> (10 * u.index)

/-- The numerator of the scaled size's fractional part, over `2^(10u)` (R157). -/
def scaledFraction (b : Nat) (u : SizeUnit) : Nat := b % 2 ^ (10 * u.index)

/-- The decoded record of one entry (R158). -/
structure EntryRecord where
  status : Byte
  sclass : StatusClass
  type : Byte
  known : Bool
  empty : Bool
  startChs : ChsTriple
  endChs : ChsTriple
  lbaStart : Word
  sectorCount : Word
  bytes : Nat
  unit : SizeUnit
  deriving DecidableEq, Repr

/-- `decode_entry(e)` of R158, total on every 16 bytes; nothing is validated (R164). -/
def decodeEntry (e : Fin 16 → Byte) : EntryRecord :=
  let cnt := le32 (e 12) (e 13) (e 14) (e 15)
  { status := e 0
    sclass := statusClass (e 0)
    type := e 4
    known := typeKnown (e 4)
    empty := typeEmpty (e 4)
    startChs := chsUnpack (e 1) (e 2) (e 3)
    endChs := chsUnpack (e 5) (e 6) (e 7)
    lbaStart := le32 (e 8) (e 9) (e 10) (e 11)
    sectorCount := cnt
    bytes := sizeBytes cnt
    unit := sizeUnit (sizeBytes cnt) }

/-! ## The entry registers -/

/-- `ENT_INFO` (R33, R159): `TYPE` at 23:16, `KNOWN` at 11, `EMPTY` at 10, `SCLASS` at 9:8, `STATUS_BYTE` at 7:0. -/
def infoWord (r : EntryRecord) : Word :=
  0#8 ++ r.type ++ 0#4 ++ BitVec.ofBool r.known ++ BitVec.ofBool r.empty ++ r.sclass.code ++ r.status

/-- `ENT_SCHS` and `ENT_ECHS` (R34, R159): `CYL` at 25:16, `SECTOR` at 13:8, `HEAD` at 7:0. -/
def chsWord (t : ChsTriple) : Word := 0#6 ++ t.cyl ++ 0#2 ++ t.sect ++ t.head

/-- The eight registers `write_ent` writes for a record (R159). -/
def entryBlock (r : EntryRecord) : EntBlock :=
  { info := infoWord r
    schs := chsWord r.startChs
    echs := chsWord r.endChs
    lba := r.lbaStart
    count := r.sectorCount
    bytesLo := (BitVec.ofNat 64 r.bytes).extractLsb' 0 32
    bytesHi := (BitVec.ofNat 64 r.bytes).extractLsb' 32 32
    unit := BitVec.ofNat 32 r.unit.index }

/-- Decodes the 16 bytes of `IN_BUF` from offset `a` (R158). -/
def State.entryAt (s : State) (a : Nat) : EntryRecord := decodeEntry fun j => s.bufByte (a + j)

/-- `write_ent(k, r)` of R159. -/
def State.writeEnt (s : State) (k : Fin 4) (r : EntryRecord) : State := s.setEnt k (entryBlock r)

/-- Slot `k`'s first byte (R183). -/
def slotOffset (k : Fin 4) : Nat := Config.tableOffset + Config.entryBytes * k

/-- Decodes slot `k` of the sector into block `ENT[k]` (R181, R184). -/
def State.decodeSlot (s : State) (k : Fin 4) : State := s.writeEnt k (s.entryAt (slotOffset k))

/-- The disk signature, 4 bytes little-endian at offset 440 (R182). -/
def State.diskSignature (s : State) : Word :=
  le32 (s.bufByte Config.sigOffset) (s.bufByte (Config.sigOffset + 1)) (s.bufByte (Config.sigOffset + 2))
    (s.bufByte (Config.sigOffset + 3))

/-! ## The commands -/

/-- `ENTRY_DECODE` (R160). -/
def execEntryDecode (s : State) : Host.Outcome State Fault Refusal :=
  if s.inLen ≠ BitVec.ofNat 32 Config.entryBytes then raiseError 0x5#4 .length s
  else complete 0x5#4 (s.writeEnt 0 (s.entryAt 0))

/-- `MBR_DECODE` (R181): all or nothing (R187). -/
def execMbrDecode (s : State) : Host.Outcome State Fault Refusal :=
  if s.inLen ≠ BitVec.ofNat 32 Config.mbrBytes then raiseError 0x6#4 .length s
  else
    complete 0x6#4 <|
      ((((s.setSig s.diskSignature).decodeSlot 0).decodeSlot 1).decodeSlot 2).decodeSlot 3

end Sys2Proof.Machine
end

