-- ==== Sys2Proof/Machine/Varint.lean ====
section
/-! DEFINITION. The VarintCodec (spec/41_varint.md) and its stream format (spec/30_encoding.md R92 to R96). -/

namespace Sys2Proof.Machine

/-! ## The stream format -/

/-- `bitlen(v)` of R15: the number of bits of `v` without leading zeros, 0 for 0. -/
def bitlen (v : Nat) : Nat := if v = 0 then 0 else Nat.log2 v + 1

/-- The 7-bit group of a stream byte (R92). -/
def group (b : Byte) : Nat := (b.extractLsb' 0 7).toNat

/-- The continuation bit of a stream byte, bit 7 (R92). -/
def continuation (b : Byte) : Bool := b.getLsbD 7

/-- `value(s)` of R93: the groups, least significant first. -/
def streamValue : List Byte → Nat
  | [] => 0
  | b :: s => group b + 2 ^ 7 * streamValue s

/-- `wellformed(s)` of R94: every byte but the last continues and the last does not; the empty stream is well
formed. -/
def streamWellFormed : List Byte → Bool
  | [] => true
  | [b] => !continuation b
  | b :: c :: s => continuation b && streamWellFormed (c :: s)

/-- `pack(s)` of R95: stream byte `i` at bits `8i+7` to `8i`. -/
def pack : List Byte → Nat
  | [] => 0
  | b :: s => b.toNat + 2 ^ 8 * pack s

/-- `unpack(p)` of R95: as many bytes as the bit length of `p` needs, the least significant first. -/
def unpack (p : Nat) : List Byte :=
  (List.range ((bitlen p + 7) / 8)).map fun i => BitVec.ofNat 8 (p >>> (8 * i))

/-! ## Encode and decode -/

/-- The loop of R110, run at most `fuel` times. It is `varint_encode` for every `n < 2^(7 * fuel)`. -/
def varintGroups : (fuel n : Nat) → List Byte
  | 0, _ => []
  | fuel + 1, n =>
    if n = 0 then []
    else
      let rest := n / 2 ^ 7
      BitVec.ofNat 8 (n % 2 ^ 7 + if rest = 0 then 0 else 0x80) :: varintGroups fuel rest

/-- `varint_encode(n)` of R110 for a 64-bit `n`: the loop runs at most 10 times (R8, R241). -/
def varintEncode (n : BitVec 64) : List Byte := varintGroups Config.varintMaxBytes n.toNat

/-- What `varint_decode` of R113 returns. -/
structure Decoded where
  value : Nat
  len : Nat
  wf : Bool
  deriving DecidableEq, Repr

/-- `varint_decode(p)` of R113: all the bytes of `unpack(p)` are consumed (R116). -/
def varintDecode (p : Nat) : Decoded :=
  { value := streamValue (unpack p), len := (unpack p).length, wf := streamWellFormed (unpack p) }

/-- The error VARINT_DECODE records, by the priority of R204: malformed before overflow. -/
def varintErr (malf ovf : Bool) : ErrCode :=
  if malf then .malformedVarint else if ovf then .varintOverflow else .none

/-! ## The commands -/

/-- `VARINT_ENCODE` (R111). -/
def execVarintEncode (s : State) : Host.Outcome State Fault Refusal :=
  let stream := varintEncode s.opa
  let p := BitVec.ofNat 80 (pack stream)
  complete 0x1#4 <|
    s.setResults (p.extractLsb' 0 64) ((p.extractLsb' 64 16).setWidth 32) (BitVec.ofNat 32 stream.length)

/-- `VARINT_DECODE` (R114). With errors 4 and 5 the results are still written (R206). -/
def execVarintDecode (s : State) : Host.Outcome State Fault Refusal :=
  if s.opbUpper ≠ 0#16 then raiseError 0x2#4 .range s
  else
    let d := varintDecode s.packedOperand.toNat
    let malf := !d.wf
    let ovf := decide (2 ^ 64 ≤ d.value)
    .next <|
      (s.setResults (BitVec.ofNat 64 d.value) 0 (BitVec.ofNat 32 d.len)).setStatus 0x2#4
        (varintErr malf ovf) malf ovf

end Sys2Proof.Machine
end

