-- ==== Sys2Proof/Machine/Dispatch.lean ====
section
/-! DEFINITION. One arm per command: each calls its meaning. -/

namespace Sys2Proof.Machine

def exec (i : Instr) (s : State) : Host.Outcome State Fault Refusal :=
  match i with
  | .varintEncode => Sys2Proof.Machine.execVarintEncode s
  | .varintDecode => Sys2Proof.Machine.execVarintDecode s
  | .chsToLba => Sys2Proof.Machine.execChsToLba s
  | .lbaToChs => Sys2Proof.Machine.execLbaToChs s
  | .entryDecode => Sys2Proof.Machine.execEntryDecode s
  | .mbrDecode => Sys2Proof.Machine.execMbrDecode s

end Sys2Proof.Machine
end

