-- ==== Sys2Proof/Machine/Window.lean ====
section
/-! DEFINITION. The register window (spec/10_state.md R21, R32) and which host accesses it refuses
(spec/20_memory.md R64 to R66). -/

namespace Sys2Proof.Machine

/-! ## The map -/

/-- The registers of an entry block (R32). -/
inductive EntReg where
  | info
  | schs
  | echs
  | lba
  | count
  | bytesLo
  | bytesHi
  | unit
  deriving DecidableEq, Repr

/-- `off(r)` of R32. -/
def EntReg.offset : EntReg → Nat
  | .info => 0x00
  | .schs => 0x04
  | .echs => 0x08
  | .lba => 0x0C
  | .count => 0x10
  | .bytesLo => 0x14
  | .bytesHi => 0x18
  | .unit => 0x1C

/-- The registers of the window (R21). -/
inductive Reg where
  | inLen
  | cmd
  | status
  | opaLo
  | opaHi
  | opb
  | opc
  | resaLo
  | resaHi
  | resb
  | resc
  | sig
  | ent (k : Fin 4) (r : EntReg)
  deriving DecidableEq, Repr

/-- A register's offset (R21, R32). -/
def Reg.offset : Reg → Nat
  | .inLen => 0x200
  | .cmd => 0x204
  | .status => 0x208
  | .opaLo => 0x210
  | .opaHi => 0x214
  | .opb => 0x218
  | .opc => 0x21C
  | .resaLo => 0x220
  | .resaHi => 0x224
  | .resb => 0x228
  | .resc => 0x22C
  | .sig => 0x230
  | .ent k r => 0x240 + 0x20 * k + r.offset

/-- The entry register at an offset inside its block (R32). -/
def entRegAt (off : Nat) : Option EntReg :=
  match off with
  | 0x00 => some .info
  | 0x04 => some .schs
  | 0x08 => some .echs
  | 0x0C => some .lba
  | 0x10 => some .count
  | 0x14 => some .bytesLo
  | 0x18 => some .bytesHi
  | 0x1C => some .unit
  | _ => none

/-- The register whose lowest byte is at an offset of the window, if there is one (R21). -/
def regAt (off : Nat) : Option Reg :=
  match off with
  | 0x200 => some .inLen
  | 0x204 => some .cmd
  | 0x208 => some .status
  | 0x210 => some .opaLo
  | 0x214 => some .opaHi
  | 0x218 => some .opb
  | 0x21C => some .opc
  | 0x220 => some .resaLo
  | 0x224 => some .resaHi
  | 0x228 => some .resb
  | 0x22C => some .resc
  | 0x230 => some .sig
  | off =>
    if off < 0x240 then none
    else if h : (off - 0x240) / 0x20 < 4 then
      (entRegAt ((off - 0x240) % 0x20)).map (.ent ⟨(off - 0x240) / 0x20, h⟩)
    else none

/-- Whether the host may not write a register (R21, R66). -/
def Reg.readOnly : Reg → Bool
  | .inLen => false
  | .cmd => false
  | .status => true
  | .opaLo => false
  | .opaHi => false
  | .opb => false
  | .opc => false
  | .resaLo => true
  | .resaHi => true
  | .resb => true
  | .resc => true
  | .sig => true
  | .ent _ _ => true

/-- The entry register of a block. -/
def EntBlock.reg (b : EntBlock) : EntReg → Word
  | .info => b.info
  | .schs => b.schs
  | .echs => b.echs
  | .lba => b.lba
  | .count => b.count
  | .bytesLo => b.bytesLo
  | .bytesHi => b.bytesHi
  | .unit => b.unit

/-- `x[NAME]` of R12: a register as the host reads it. -/
def State.readReg (s : State) : Reg → Word
  | .inLen => s.inLen
  | .cmd => s.cmd
  | .status => s.status
  | .opaLo => s.opaLo
  | .opaHi => s.opaHi
  | .opb => s.opb
  | .opc => s.opc
  | .resaLo => s.resaLo
  | .resaHi => s.resaHi
  | .resb => s.resb
  | .resc => s.resc
  | .sig => s.sig
  | .ent k r => (s.ent.get k).reg r

/-- The window offset of an absolute host address, given the base address (R71): the model takes the base as an
argument here and uses offsets everywhere else. Log 4. -/
def windowOffset (base addr : Nat) : Option Nat :=
  if base ≤ addr ∧ addr < base + Config.windowBytes then some (addr - base) else none

/-! ## Refused accesses (R66), one check for each kind it lists -/

/-- The offset is not a multiple of the width in bytes (R65). -/
def misaligned (a : BusAccess) : Bool := a.offset % a.bytes != 0

/-- The offset is in `IN_BUF` (R21). -/
def inBuffer (off : Nat) : Bool := decide (off < Config.mbrBytes)

/-- The width is not allowed at the offset (R64): 8, 16 and 32 bits are allowed in `IN_BUF`, 32 bits in the rest of
the window, and no width outside it (R60). Log 5, log 10. -/
def widthRefused (a : BusAccess) : Bool :=
  if inBuffer a.offset then !(a.width == 8 || a.width == 16 || a.width == 32)
  else a.width != 32 || decide (Config.windowBytes ≤ a.offset)

/-- The offset is reserved: the word at 0x20C, 0x234 to 0x23F, 0x2C0 to 0x3FF (R21, R66). -/
def reservedOffset (off : Nat) : Bool :=
  (decide (0x20C ≤ off) && decide (off ≤ 0x20F)) || (decide (0x234 ≤ off) && decide (off ≤ 0x23F))
    || (decide (0x2C0 ≤ off) && decide (off ≤ 0x3FF))

/-- A write to a read-only register (R66), at any byte of it. -/
def readOnlyWrite (a : BusAccess) : Bool :=
  match a.kind with
  | .read => false
  | .write _ => (regAt (a.offset - a.offset % 4)).any Reg.readOnly

/-- The access crosses from `IN_BUF` into 0x200 (R66). -/
def crossesBuffer (a : BusAccess) : Bool :=
  inBuffer a.offset && decide (Config.mbrBytes < a.offset + a.bytes)

/-- A refused access (R66). -/
def refusedAccess (a : BusAccess) : Bool :=
  misaligned a || widthRefused a || reservedOffset a.offset || readOnlyWrite a || crossesBuffer a

end Sys2Proof.Machine
end

