-- ==== Sys2Proof/Machine/Bus.lean ====
section
/-! DEFINITION. What one input does: a host access (spec/20_memory.md R64 to R67), the command a `CMD` write runs
(spec/10_state.md R24, spec/30_encoding.md R81), and the platform's reset (spec/70_reset_and_hazards.md R230). -/

namespace Sys2Proof.Machine

/-- Runs the command a word encodes (R81). A word that is no command raises `IllegalCommand` and changes no register
but `STATUS` (R83). -/
def runCommand (w : Word) (s : State) : Host.Outcome State Fault Refusal :=
  match decode w with
  | .ok i => exec i s
  | .error _ => raiseError (opField w) .illegalCommand s

/-- A host write to a register (R24, R26, R67): it stores the word; a write to `CMD` then runs the command, all in
one step. A write to a read-only register is refused (R66). -/
def hostWriteReg (r : Reg) (v : Word) (s : State) : Host.Outcome State Fault Refusal :=
  match r with
  | .inLen => .next { s with inLen := v }
  | .cmd => runCommand v { s with cmd := v }
  | .opaLo => .next { s with opaLo := v }
  | .opaHi => .next { s with opaHi := v }
  | .opb => .next { s with opb := v }
  | .opc => .next { s with opc := v }
  | .status | .resaLo | .resaHi | .resb | .resc | .sig | .ent _ _ => .next (s.refuseAccess (.write v))

/-- An allowed access to `IN_BUF` (R62, R64): a read returns the bytes little-endian, zero-extended to the bus. -/
def accessBuffer (a : BusAccess) (s : State) : Host.Outcome State Fault Refusal :=
  match a.kind with
  | .read => .next { s with lastRead := some (BitVec.ofNat 32 (s.memRead a.offset a.bytes)) }
  | .write v => .next (s.memWrite a.offset v a.bytes)

/-- An access to a register. A read has no side effect (R67). -/
def accessReg (r : Reg) (k : AccessKind) (s : State) : Host.Outcome State Fault Refusal :=
  match k with
  | .read => .next { s with lastRead := some (s.readReg r) }
  | .write v => hostWriteReg r v s

/-- One host access: it is refused (R66) or has its effect, and has no other outcome (R219). -/
def performAccess (a : BusAccess) (s : State) : Host.Outcome State Fault Refusal :=
  if refusedAccess a then .next (s.refuseAccess a.kind)
  else if inBuffer a.offset then accessBuffer a s
  else
    match regAt a.offset with
    | some r => accessReg r a.kind s
    | none => .next (s.refuseAccess a.kind)

/-- The platform's reset within a run (R230, R233): every register 0, `IN_BUF` unspecified again, so a new draw of
each byte. The mark stays, because nothing clears it (R66, R218): the clear mark of R230 is that of `State.reset`, in
which a run begins. What the host has still to do and what it read last are not the device's. Log 8. -/
def State.platformReset (s : State) : State :=
  { State.reset with
    hostFault := s.hostFault
    inputs := s.inputs
    lastRead := s.lastRead
    drawEpoch := s.drawEpoch + 1 }

/-- Takes one input. -/
def takeInput (x : Input) (s : State) : Host.Outcome State Fault Refusal :=
  match x with
  | .access a => performAccess a s
  | .reset => .next s.platformReset

/-- The host access that writes a word to `CMD` (R98, R99). -/
def cmdWrite (w : Word) : Input := .access { kind := .write w, offset := Reg.cmd.offset, width := 32 }

end Sys2Proof.Machine
end

