-- ==== Sys2Proof/Machine/Step.lean ====
section
/-! DEFINITION. One step: the next input takes effect (spec/20_memory.md R73). -/

namespace Sys2Proof.Machine

/-- Takes the next input; with none left the device keeps its state (R20, R217). Log 1. -/
def step (s : State) : Host.Outcome State Fault Refusal :=
  match s.inputs with
  | [] => .next s
  | x :: rest => takeInput x { s with inputs := rest }

/-- `s` with the `CMD` write of the word `w` as its next input: the place a command comes from (R36). Log 1. -/
def State.withFetchWord (s : State) (nbits w : Nat) : State :=
  { s with inputs := cmdWrite (BitVec.ofNat 32 (w % 2 ^ nbits)) :: s.inputs }

end Sys2Proof.Machine
end

