-- ==== Sys2Proof/Machine/Script.lean ====
section
/-! DEFINITION. The host-script notation (spec/30_encoding.md R97) and its pseudo-instructions, each exactly its
expansion (R98). -/

namespace Sys2Proof.Machine.Script

/-- `wr8 off, v` (R97). -/
def wr8 (off : Nat) (v : Byte) : Input :=
  .access { kind := .write (v.setWidth 32), offset := off, width := 8 }

/-- `wr16 off, v` (R97). -/
def wr16 (off : Nat) (v : BitVec 16) : Input :=
  .access { kind := .write (v.setWidth 32), offset := off, width := 16 }

/-- `wr32 off, v` (R97). -/
def wr32 (off : Nat) (v : Word) : Input :=
  .access { kind := .write v, offset := off, width := 32 }

/-- `rd8 off` (R97). -/
def rd8 (off : Nat) : Input := .access { kind := .read, offset := off, width := 8 }

/-- `rd16 off` (R97). -/
def rd16 (off : Nat) : Input := .access { kind := .read, offset := off, width := 16 }

/-- `rd32 off` (R97). -/
def rd32 (off : Nat) : Input := .access { kind := .read, offset := off, width := 32 }

/-- `cmd MNEMONIC` (R98). -/
def cmd (i : Instr) : List Input := [cmdWrite (encode i)]

/-- `ld64 OPA, v` (R98). -/
def ld64 (v : BitVec 64) : List Input :=
  [wr32 Reg.opaLo.offset (v.extractLsb' 0 32), wr32 Reg.opaHi.offset (v.extractLsb' 32 32)]

/-- `ldpacked v` (R98). -/
def ldpacked (v : BitVec 80) : List Input :=
  [wr32 Reg.opaLo.offset (v.extractLsb' 0 32), wr32 Reg.opaHi.offset (v.extractLsb' 32 32),
    wr32 Reg.opb.offset ((v.extractLsb' 64 16).setWidth 32)]

/-- `ldbuf a, [b0, …]` (R98). -/
def ldbuf (a : Nat) : List Byte → List Input
  | [] => []
  | b :: bs => wr8 a b :: ldbuf (a + 1) bs

/-- `zbuf` (R98): 128 word writes of 0, offsets rising. -/
def zbuf : List Input := (List.range 128).map fun j => wr32 (4 * j) 0

/-- `setlen n` (R98). -/
def setlen (n : Word) : List Input := [wr32 Reg.inLen.offset n]

end Sys2Proof.Machine.Script
end

