-- ==== Sys2Proof/Safety.lean ====
section
/-! DEFINITION. What counts as a safe run (spec/60_exceptions.md R218), the legal values of the registers a command
writes (spec/10_state.md R25, R33, R34), the invariant every step keeps, and the words in which statements say what a
decoded entry holds. -/

namespace Sys2Proof.Machine

/-- No final state may carry the host-fault mark (R66, R218). -/
def State.safe (s : State) : Bool := !s.hostFault

/-- `n` steps one after the other, stopping at the first that has no next state. -/
def run : (n : Nat) → State → Host.Outcome State Fault Refusal
  | 0, s => .next s
  | n + 1, s =>
    match step s with
    | .next t => run n t
    | stop => stop

/-! ## Legal register values -/

/-- The error codes a command can record (R202). -/
def recordable : Instr → List ErrCode
  | .varintEncode => [.none]
  | .varintDecode => [.none, .range, .malformedVarint, .varintOverflow]
  | .chsToLba => [.none, .range]
  | .lbaToChs => [.none, .range]
  | .entryDecode => [.none, .length]
  | .mbrDecode => [.none, .length]

/-- The pairs of `OP` and `ERR` a `CMD` write can leave (R202): the codes of each command, and `IllegalCommand` under
any `OP`. -/
def opErrLegal (op err : BitVec 4) : Bool :=
  err == 2#4 || (op == 1#4 && err == 0#4)
    || (op == 2#4 && (err == 0#4 || err == 3#4 || err == 4#4 || err == 5#4))
    || ((op == 3#4 || op == 4#4) && (err == 0#4 || err == 3#4))
    || ((op == 5#4 || op == 6#4) && (err == 0#4 || err == 1#4))

/-- A `STATUS` word that a `CMD` write can leave (R25, R202 to R204): reserved bits 0; `VALID` exactly without error;
`MALF` exactly with error 4; `OVF` with error 5, and otherwise only beside `MALF`. -/
def statusLegal (w : Word) : Bool :=
  w.extractLsb' 1 3 == 0#3 && w.extractLsb' 10 2 == 0#2 && w.extractLsb' 16 16 == 0#16
    && (statusValid w == (statusErr w == 0#4)) && opErrLegal (statusOp w) (statusErr w)
    && (statusMalf w == (statusErr w == 4#4)) && (statusErr w != 5#4 || statusOvf w)
    && (!statusOvf w || statusErr w == 4#4 || statusErr w == 5#4)

/-- The reserved bits of a CHS register are 0 (R34). -/
def chsWordLegal (w : Word) : Bool :=
  w.extractLsb' 14 2 == 0#2 && w.extractLsb' 26 6 == 0#6

/-- A block some entry was decoded into (R32 to R34): reserved bits 0, and the classification and the size agree with
the fields they come from. -/
def entBlockDecoded (b : EntBlock) : Bool :=
  b.info.extractLsb' 12 4 == 0#4 && b.info.extractLsb' 24 8 == 0#8
    && b.info.extractLsb' 8 2 == (statusClass (b.info.extractLsb' 0 8)).code
    && b.info.getLsbD 10 == typeEmpty (b.info.extractLsb' 16 8)
    && b.info.getLsbD 11 == typeKnown (b.info.extractLsb' 16 8)
    && chsWordLegal b.schs && chsWordLegal b.echs
    && b.bytesHi.toNat * 2 ^ 32 + b.bytesLo.toNat == sizeBytes b.count
    && b.unit.toNat == (sizeUnit (sizeBytes b.count)).index

/-- All that holds before any `CMD` write (R25, R230): `CMD` and every result register are 0. -/
def State.noCommandYet (s : State) : Prop :=
  s.cmd = 0 ∧ s.resaLo = 0 ∧ s.resaHi = 0 ∧ s.resb = 0 ∧ s.resc = 0 ∧ s.sig = 0 ∧
    ∀ k, s.ent.get k = EntBlock.zero

/-- The invariant of the machine. -/
structure Inv (s : State) : Prop where
  /-- The buffer's written bytes are in canonical form and inside `IN_BUF` (R22). -/
  buffer : s.inBuf.wf = true
  /-- `STATUS` is 0 or a word a command leaves (R25). -/
  status : s.status = 0 ∨ statusLegal s.status = true
  /-- `STATUS.OP` is bits 3:0 of the last value written to `CMD` (R25). -/
  op : statusOp s.status = opField s.cmd
  /-- `STATUS` = 0 means that no command ran since reset (R25). -/
  fresh : s.status = 0 → s.noCommandYet
  /-- `RESB[31:16]` is 0 and `RESC` is a byte count or a sector number (R28, R111, R132). -/
  results : s.resb.toNat < 2 ^ 16 ∧ s.resc.toNat ≤ 63
  /-- Each entry block is as reset left it, or one that an entry was decoded into (R33, R34). -/
  entries : ∀ k, s.ent.get k = EntBlock.zero ∨ entBlockDecoded (s.ent.get k) = true

/-! ## What a decoded entry holds, field by field -/

/-- Register `w` holds the CHS triple packed in the bytes `c0 c1 c2` (R34, R90). -/
structure ChsHeld (c0 c1 c2 : Byte) (w : Word) : Prop where
  head : (w.extractLsb' 0 8).toNat = c0.toNat
  sector : (w.extractLsb' 8 6).toNat = c1.toNat % 64
  cylinder : (w.extractLsb' 16 10).toNat = c1.toNat / 64 * 256 + c2.toNat
  reserved : w.extractLsb' 14 2 = 0#2 ∧ w.extractLsb' 26 6 = 0#6

/-- The unit `u` is the least of 0 to 4 whose next threshold is above `b`, or 4 if there is none (R156). -/
def UnitHeld (b u : Nat) : Prop :=
  u ≤ 4 ∧ (u < 4 → b < 1024 ^ (u + 1)) ∧ ∀ v < u, 1024 ^ (v + 1) ≤ b

/-- Block `b` holds the record of the 16 bytes `e 0` to `e 15` (R32 to R34, R89, R158). -/
structure EntryHeld (e : Nat → Byte) (b : EntBlock) : Prop where
  statusByte : b.info.extractLsb' 0 8 = e 0
  statusCode : (b.info.extractLsb' 8 2).toNat =
    if (e 0).toNat = 0 then 0 else if (e 0).toNat < 0x80 then 1 else 2
  emptyFlag : b.info.getLsbD 10 = decide ((e 4).toNat = 0)
  knownFlag : b.info.getLsbD 11 = Config.knownType (e 4)
  typeCode : b.info.extractLsb' 16 8 = e 4
  infoReserved : b.info.extractLsb' 12 4 = 0#4 ∧ b.info.extractLsb' 24 8 = 0#8
  startChs : ChsHeld (e 1) (e 2) (e 3) b.schs
  endChs : ChsHeld (e 5) (e 6) (e 7) b.echs
  lbaStart : b.lba.toNat =
    (e 8).toNat + (e 9).toNat * 2 ^ 8 + (e 10).toNat * 2 ^ 16 + (e 11).toNat * 2 ^ 24
  sectorCount : b.count.toNat =
    (e 12).toNat + (e 13).toNat * 2 ^ 8 + (e 14).toNat * 2 ^ 16 + (e 15).toNat * 2 ^ 24
  byteSize : b.bytesHi.toNat * 2 ^ 32 + b.bytesLo.toNat = b.count.toNat * 512
  sizeUnit : UnitHeld (b.count.toNat * 512) b.unit.toNat

/-! ## What a command reads and writes -/

/-- Two states give a command the same inputs (R28): the buffer, its length and the operand registers. -/
def sameInputs (s u : State) : Prop :=
  (∀ a, u.bufByte a = s.bufByte a) ∧ u.inLen = s.inLen ∧ u.opaLo = s.opaLo ∧ u.opaHi = s.opaHi ∧
    u.opb = s.opb ∧ u.opc = s.opc

/-- Two states hold the same results of a command (R28): the registers it writes. -/
def sameResults (i : Instr) (t v : State) : Prop :=
  match i with
  | .varintEncode | .varintDecode | .chsToLba | .lbaToChs =>
    v.resaLo = t.resaLo ∧ v.resaHi = t.resaHi ∧ v.resb = t.resb ∧ v.resc = t.resc
  | .entryDecode => v.ent.get 0 = t.ent.get 0
  | .mbrDecode => v.sig = t.sig ∧ v.ent = t.ent

/-- Whether the errors 1, 2 and 3, found before any result is written (R205), include a code. -/
def earlyError (err : BitVec 4) : Bool := err == 1#4 || err == 2#4 || err == 3#4

end Sys2Proof.Machine
end

