-- ==== Sys2Proof/Certificates/Slice0/Obligations.lean ====
section
/-! DEFINITION. The statements for the provers. `exec` runs a command alone; `runCommand` is what a write of a word to
`CMD` runs once the word is stored; `step` takes the next input of the machine. -/

open Sys2Proof Sys2Proof.Machine

/-! ## Command words -/

/-- The words of R82 are the six commands, and the words of table C1 of spec/95_test_vectors.md are none. -/
def Obligations.TableWordsDecode : Prop :=
  decode 0x00000001#32 = .ok .varintEncode ∧ decode 0x00000002#32 = .ok .varintDecode ∧
  decode 0x00000003#32 = .ok .chsToLba ∧ decode 0x00000004#32 = .ok .lbaToChs ∧
  decode 0x00000005#32 = .ok .entryDecode ∧ decode 0x00000006#32 = .ok .mbrDecode ∧
  decode 0x00000000#32 = .error (.unassignedOp 0x0#4) ∧ decode 0x00000007#32 = .error (.unassignedOp 0x7#4) ∧
  decode 0x0000000F#32 = .error (.unassignedOp 0xF#4) ∧
  decode 0x00000011#32 = .error (.reservedBits 0x00000011#32) ∧
  decode 0x80000006#32 = .error (.reservedBits 0x80000006#32)

/-- Decode and encode agree on all commands and all words: a word decodes to a command exactly when it is that
command's word, and exactly the words 1 to 6 are commands (R80 to R83). -/
def Obligations.DecodeReadsExactlyTheEncodings : Prop :=
  (∀ i : Instr, i.wellFormed = true → decode (encode i) = .ok i) ∧
  (∀ (w : Word) (i : Instr), decode w = .ok i → w = encode i) ∧
  (∀ w : Word, (∃ i, decode w = .ok i) ↔ 1 ≤ w.toNat ∧ w.toNat ≤ 6)

/-- A `CMD` write of a word that decodes to `i` stores the word and runs `i`, all in one step (R24, R81). -/
def Obligations.StepRunsTheDecodedCommand : Prop :=
  ∀ (s : State) (rest : List Input) (w : Word) (i : Instr),
    s.inputs = .access { kind := .write w, offset := 0x204, width := 32 } :: rest → decode w = .ok i →
    step s = exec i { s with inputs := rest, cmd := w }

/-- A `CMD` write of an illegal word changes `CMD` and `STATUS` and no other register: `STATUS` gets OP = bits 3:0 and
ERR = 2, which is never the reset value (R83, R201, R203). That `CMD` stores the illegal word, although R83 names
`STATUS` alone, is the model's reading of R83 with R24 and R201 (log 14). -/
def Obligations.IllegalWordWritesStatusOnly : Prop :=
  ∀ (s : State) (rest : List Input) (w : Word),
    s.inputs = .access { kind := .write w, offset := 0x204, width := 32 } :: rest →
    (w.toNat % 16 = 0 ∨ 7 ≤ w.toNat % 16 ∨ w.toNat / 16 ≠ 0) →
    step s = .next
      { s with inputs := rest, cmd := w, status := 0#16 ++ w.extractLsb' 0 4 ++ 0x020#12 } ∧
    0#16 ++ w.extractLsb' 0 4 ++ 0x020#12 ≠ (0 : Word)

/-! ## VarintCodec -/

/-- VARINT_ENCODE completes in every state with the packed form of a well-formed stream whose value is `OPA`, of at
most 10 bytes, none of them a last byte 0 (R111). -/
def Obligations.VarintEncodeWritesTheStreamOfOpa : Prop :=
  ∀ s : State, ∃ st : List Byte,
    streamValue st = s.opaHi.toNat * 2 ^ 32 + s.opaLo.toNat ∧ streamWellFormed st = true ∧
    st.getLast? ≠ some 0#8 ∧ st.length ≤ 10 ∧ pack st < 2 ^ 80 ∧
    exec .varintEncode s = .next
      { s with
        resaLo := BitVec.ofNat 32 (pack st)
        resaHi := BitVec.ofNat 32 (pack st / 2 ^ 32)
        resb := BitVec.ofNat 32 (pack st / 2 ^ 64)
        resc := BitVec.ofNat 32 st.length
        status := 0x1001#32 }

/-- A well-formed stream with no last byte 0 is determined by its value: the stream VARINT_ENCODE writes is the only
one of its kind. -/
def Obligations.StreamIsDeterminedByItsValue : Prop :=
  ∀ st tu : List Byte, streamWellFormed st = true → streamWellFormed tu = true →
    st.getLast? ≠ some 0#8 → tu.getLast? ≠ some 0#8 → streamValue st = streamValue tu → st = tu

/-- The properties of `varint_encode` for `n > 0` (R112): its length, its continuation bits, its last byte, that it is
well formed, minimal and unchanged by packing, and at most 10 bytes for a 64-bit `n`. -/
def Obligations.VarintEncodeStreamProperties : Prop :=
  ∀ fuel n : Nat, 0 < n → n < 2 ^ (7 * fuel) →
    (varintGroups fuel n).length = (bitlen n + 6) / 7 ∧
    (∀ b ∈ (varintGroups fuel n).dropLast, continuation b = true) ∧
    (∃ b, (varintGroups fuel n).getLast? = some b ∧ b ≠ 0#8 ∧ continuation b = false) ∧
    streamWellFormed (varintGroups fuel n) = true ∧
    (∀ st : List Byte, streamValue st = n → (varintGroups fuel n).length ≤ st.length) ∧
    unpack (pack (varintGroups fuel n)) = varintGroups fuel n ∧
    (n < 2 ^ 64 → (varintGroups fuel n).length ≤ 10)

/-- The consequences of the packed view (R96). -/
def Obligations.UnpackPackConsequences : Prop :=
  (∀ st : List Byte, unpack (pack st) = st ↔ st = [] ∨ ∃ b, st.getLast? = some b ∧ b ≠ 0#8) ∧
  (∀ n : BitVec 64, unpack (pack (varintEncode n)) = varintEncode n) ∧
  (∀ st : List Byte, pack (st ++ [0#8]) = pack st) ∧
  unpack (pack [0x80#8, 0x00#8]) = [0x80#8] ∧ streamWellFormed [0x80#8] = false ∧
  pack [] = 0 ∧ pack [0x00#8] = 0 ∧ unpack 0 = []

/-- VARINT_DECODE with `OPB[31:16]` = 0 completes: its operand is the packed form of one stream of
ceil(bitlen/8) ≤ 10 bytes; it writes the stream's value, its length and the whole `STATUS`, also where the stream is
malformed or overflows (R114, R204, R206). -/
def Obligations.VarintDecodeWritesTheValueOfTheStream : Prop :=
  ∀ s : State, s.opb.toNat < 2 ^ 16 → ∃ st : List Byte,
    pack st = s.opb.toNat * 2 ^ 64 + s.opaHi.toNat * 2 ^ 32 + s.opaLo.toNat ∧ st.getLast? ≠ some 0#8 ∧
    st.length = (bitlen (pack st) + 7) / 8 ∧ st.length ≤ 10 ∧
    exec .varintDecode s = .next
      { s with
        resaLo := BitVec.ofNat 32 (streamValue st)
        resaHi := BitVec.ofNat 32 (streamValue st / 2 ^ 32)
        resb := 0
        resc := BitVec.ofNat 32 st.length
        status :=
          if streamWellFormed st = false ∧ 2 ^ 64 ≤ streamValue st then 0x2340#32
          else if streamWellFormed st = false then 0x2140#32
          else if 2 ^ 64 ≤ streamValue st then 0x2250#32
          else 0x2001#32 }

/-- VARINT_DECODE with a bit of `OPB[31:16]` set writes only `STATUS`: RangeError (R29, R114). -/
def Obligations.VarintDecodeRangeError : Prop :=
  ∀ s : State, 2 ^ 16 ≤ s.opb.toNat → exec .varintDecode s = .next { s with status := 0x2030#32 }

/-- VARINT_DECODE overflows exactly for a 10-byte operand whose last byte has 2 or more in its low 7 bits, and it finds
a stream malformed whenever the operand's top byte has bit 7 set (R114). -/
def Obligations.VarintDecodeCornerVerdicts : Prop :=
  ∀ s : State, s.opb.toNat < 2 ^ 16 → ∃ t, exec .varintDecode s = .next t ∧
    (statusOvf t.status = true ↔ 2 ≤ s.opb.toNat / 2 ^ 8 % 2 ^ 7) ∧
    (∀ p, p = s.opb.toNat * 2 ^ 64 + s.opaHi.toNat * 2 ^ 32 + s.opaLo.toNat → 0 < p →
      p / 2 ^ (8 * ((bitlen p - 1) / 8)) % 256 ≥ 0x80 → statusMalf t.status = true)

/-- The round-trip law (R119): VARINT_DECODE of what VARINT_ENCODE wrote returns the value, the same byte count, and
no error. -/
def Obligations.VarintRoundTrip : Prop :=
  ∀ s : State, ∃ t, exec .varintEncode s = .next t ∧
    ∃ u, exec .varintDecode { t with opaLo := t.resaLo, opaHi := t.resaHi, opb := t.resb } = .next u ∧
      u.resaLo = s.opaLo ∧ u.resaHi = s.opaHi ∧ u.resc = t.resc ∧ statusErr u.status = 0#4

/-- Zero: VARINT_ENCODE of 0 gives the empty stream, VARINT_DECODE of packed 0 gives value 0 and length 0, both without
error (R121). -/
def Obligations.VarintZero : Prop :=
  ∀ s : State, s.opaLo = 0 → s.opaHi = 0 →
    exec .varintEncode s = .next { s with resaLo := 0, resaHi := 0, resb := 0, resc := 0, status := 0x1001#32 } ∧
    (s.opb = 0 → exec .varintDecode s =
      .next { s with resaLo := 0, resaHi := 0, resb := 0, resc := 0, status := 0x2001#32 })

/-- Decoding is not injective (R120): 0x7F and 0xFF both give 127, and only 0x7F is well formed; 0xAC02 gives 5634 and
is malformed. -/
def Obligations.VarintDecodeIsNotInjective : Prop :=
  ∀ s : State, s.opb = 0 → s.opaHi = 0 →
    exec .varintDecode { s with opaLo := 0x7F } = .next
      { s with opaLo := 0x7F, resaLo := 127, resaHi := 0, resb := 0, resc := 1, status := 0x2001#32 } ∧
    exec .varintDecode { s with opaLo := 0xFF } = .next
      { s with opaLo := 0xFF, resaLo := 127, resaHi := 0, resb := 0, resc := 1, status := 0x2140#32 } ∧
    exec .varintDecode { s with opaLo := 0xAC02 } = .next
      { s with opaLo := 0xAC02, resaLo := 5634, resaHi := 0, resb := 0, resc := 2, status := 0x2140#32 }

/-! ## GeometryConverter -/

/-- CHS_TO_LBA with `OPA_HI` = 0 completes with the exact integer `c*1008 + h*63 + s - 1` in 64-bit two's complement,
in [-1, 2^43), negative only for (0, 0, 0) (R130, R131). -/
def Obligations.ChsToLbaIsExact : Prop :=
  ∀ s : State, s.opaHi = 0 → ∃ t, exec .chsToLba s = .next t ∧
    t = { s with resaLo := t.resaLo, resaHi := t.resaHi, resb := 0, resc := 0, status := 0x3001#32 } ∧
    (t.resaHi ++ t.resaLo : BitVec 64).toInt =
      (s.opaLo.toNat : Int) * 1008 + (s.opb.toNat : Int) * 63 + (s.opc.toNat : Int) - 1 ∧
    -1 ≤ (t.resaHi ++ t.resaLo : BitVec 64).toInt ∧ (t.resaHi ++ t.resaLo : BitVec 64).toInt < 2 ^ 43 ∧
    ((t.resaHi ++ t.resaLo : BitVec 64).toInt < 0 ↔ s.opaLo = 0 ∧ s.opb = 0 ∧ s.opc = 0)

/-- LBA_TO_CHS with `OPA_HI` = 0 completes with the one triple of the fixed geometry that has the LBA: cylinder at most
4260880, head 0 to 15, sector 1 to 63 (R130, R132). -/
def Obligations.LbaToChsIsTheGeometricTriple : Prop :=
  ∀ s : State, s.opaHi = 0 → ∃ c h n : Nat,
    c ≤ 4260880 ∧ h ≤ 15 ∧ 1 ≤ n ∧ n ≤ 63 ∧ c * 1008 + h * 63 + n = s.opaLo.toNat + 1 ∧
    exec .lbaToChs s = .next
      { s with
        resaLo := BitVec.ofNat 32 c
        resaHi := 0
        resb := BitVec.ofNat 32 h
        resc := BitVec.ofNat 32 n
        status := 0x4001#32 }

/-- The converter's commands with `OPA_HI` not 0 write only `STATUS`: RangeError (R29, R131, R132). -/
def Obligations.GeometryRangeError : Prop :=
  ∀ s : State, s.opaHi ≠ 0 →
    exec .chsToLba s = .next { s with status := 0x3030#32 } ∧
    exec .lbaToChs s = .next { s with status := 0x4030#32 }

/-- The inverse laws of the two commands (R133). -/
def Obligations.GeometryInverseLaws : Prop :=
  (∀ s : State, s.opaHi = 0 → ∃ t, exec .lbaToChs s = .next t ∧
    ∃ u, exec .chsToLba { t with opaLo := t.resaLo, opb := t.resb, opc := t.resc } = .next u ∧
      u.resaLo = s.opaLo ∧ u.resaHi = 0) ∧
  (∀ s : State, s.opaHi = 0 → s.opb.toNat ≤ 15 → 1 ≤ s.opc.toNat → s.opc.toNat ≤ 63 →
    (s.opaLo.toNat ≤ 4260879 ∨ (s.opaLo.toNat = 4260880 ∧ s.opb.toNat * 63 + s.opc.toNat - 1 ≤ 255)) →
    ∃ t, exec .chsToLba s = .next t ∧ t.resaHi = 0 ∧
      ∃ u, exec .lbaToChs { t with opaLo := t.resaLo } = .next u ∧
        u.resaLo = s.opaLo ∧ u.resaHi = 0 ∧ u.resb = s.opb ∧ u.resc = s.opc)

/-! ## PartitionEntryDecoder and MbrDecoder -/

/-- Status classification is total over the 256 bytes, with the codes 0, 1 and 2 (R150). -/
def Obligations.StatusClassRanges : Prop :=
  ∀ st : Byte,
    (st.toNat = 0x00 → statusClass st = .inactive) ∧
    (0x01 ≤ st.toNat ∧ st.toNat ≤ 0x7F → statusClass st = .invalid) ∧
    (0x80 ≤ st.toNat → statusClass st = .bootable) ∧
    StatusClass.inactive.code = 0#2 ∧ StatusClass.invalid.code = 1#2 ∧ StatusClass.bootable.code = 2#2 ∧
    (statusClass st).code ≠ 3#2

/-- CHS unpacking: the head is byte 0, the sector the low 6 bits of byte 1, the cylinder the top 2 bits of byte 1 above
byte 2 (R153). -/
def Obligations.ChsUnpackFields : Prop :=
  ∀ c0 c1 c2 : Byte,
    (chsUnpack c0 c1 c2).head.toNat = c0.toNat ∧
    (chsUnpack c0 c1 c2).sect.toNat = c1.toNat % 64 ∧
    (chsUnpack c0 c1 c2).cyl.toNat = c1.toNat / 64 * 256 + c2.toNat ∧
    chsUnpack 0xFE#8 0xFF#8 0xFF#8 = { cyl := 1023#10, head := 254#8, sect := 63#6 }

/-- The scaled size of a sector count (R155 to R157): its exact parts add up to the bytes, the bytes are below 2^41,
and the integer part is below 1024, below 2 in the largest unit. -/
def Obligations.ScaledSizeIsExact : Prop :=
  ∀ cnt : Word,
    let b := sizeBytes cnt
    let u := sizeUnit b
    b = cnt.toNat * 512 ∧ b < 2 ^ 41 ∧ UnitHeld b u.index ∧
    b = scaledWhole b u * 1024 ^ u.index + scaledFraction b u ∧ scaledFraction b u < 1024 ^ u.index ∧
    (u ≠ .tib → scaledWhole b u < 1024) ∧ (u = .tib → scaledWhole b u < 2)

/-- ENTRY_DECODE with `IN_LEN` = 16 completes for every 16 bytes: `ENT[0]` holds their record, field by field, and no
register but `ENT[0]` and `STATUS` changes (R158 to R161, R164). -/
def Obligations.EntryDecodeFillsBlockZero : Prop :=
  ∀ s : State, s.inLen = 16 → ∃ b : EntBlock, EntryHeld s.bufByte b ∧
    exec .entryDecode s = .next { s with ent := { s.ent with e0 := b }, status := 0x5001#32 }

/-- ENTRY_DECODE and MBR_DECODE with a wrong length write only `STATUS`: LengthError (R160, R181, R187, R237). -/
def Obligations.DecodersCheckTheLength : Prop :=
  ∀ s : State,
    (s.inLen ≠ 16 → exec .entryDecode s = .next { s with status := 0x5010#32 }) ∧
    (s.inLen ≠ 512 → exec .mbrDecode s = .next { s with status := 0x6010#32 })

/-- MBR_DECODE with `IN_LEN` = 512 completes for every sector: `SIG` holds the little-endian word at 440 and block
`ENT[k]` the record of the 16 bytes from 446 + 16k (R181 to R184). -/
def Obligations.MbrDecodeFillsSignatureAndSlots : Prop :=
  ∀ s : State, s.inLen = 512 → ∃ (sig : Word) (b0 b1 b2 b3 : EntBlock),
    sig.toNat = (s.bufByte 440).toNat + (s.bufByte 441).toNat * 2 ^ 8 + (s.bufByte 442).toNat * 2 ^ 16
      + (s.bufByte 443).toNat * 2 ^ 24 ∧
    EntryHeld (fun j => s.bufByte (446 + j)) b0 ∧ EntryHeld (fun j => s.bufByte (462 + j)) b1 ∧
    EntryHeld (fun j => s.bufByte (478 + j)) b2 ∧ EntryHeld (fun j => s.bufByte (494 + j)) b3 ∧
    exec .mbrDecode s = .next
      { s with sig := sig, ent := { e0 := b0, e1 := b1, e2 := b2, e3 := b3 }, status := 0x6001#32 }

/-- The two decoders agree: the block MBR_DECODE writes for a slot is the block ENTRY_DECODE writes for the same 16
bytes (R158, R160, R181). -/
def Obligations.MbrSlotsAgreeWithEntryDecode : Prop :=
  ∀ (s u : State) (k : Fin 4), s.inLen = 512 → u.inLen = 16 →
    (∀ j < 16, u.bufByte j = s.bufByte (446 + 16 * k.val + j)) →
    ∃ t v, exec .mbrDecode s = .next t ∧ exec .entryDecode u = .next v ∧ t.ent.get k = v.ent.get 0

/-- MBR_DECODE reads bytes 440 to 443 and 446 to 509 and nothing else of the sector (R180): two sectors that agree there
decode alike, whatever the boot signature and the other bytes. -/
def Obligations.MbrDecodeIgnoresTheOtherBytes : Prop :=
  ∀ (s : State) (m : Memory),
    (∀ a, (440 ≤ a ∧ a ≤ 443) ∨ (446 ≤ a ∧ a ≤ 509) → { s with inBuf := m }.bufByte a = s.bufByte a) →
    ∃ t, exec .mbrDecode s = .next t ∧ exec .mbrDecode { s with inBuf := m } = .next { t with inBuf := m }

/-- The all-zero sector (R186). -/
def Obligations.AllZeroSector : Prop :=
  ∀ s : State, s.inLen = 512 → (∀ a < 512, s.bufByte a = 0#8) → ∃ e : EntBlock,
    e = { EntBlock.zero with info := if Config.knownType 0x00#8 then 0x00000C00#32 else 0x00000400#32 } ∧
    exec .mbrDecode s = .next
      { s with sig := 0, ent := { e0 := e, e1 := e, e2 := e, e3 := e }, status := 0x6001#32 }

/-- The type byte is no error and changes no other field (R162, R163): two entries that differ in byte 4 alone both
decode without error, to blocks that differ at most in `TYPE`, `EMPTY` and `KNOWN`; and type 0x99 is not known (R9). -/
def Obligations.EntryTypeIsNeverAnError : Prop :=
  ∀ s u : State, s.inLen = 16 → u.inLen = 16 → (∀ j < 16, j ≠ 4 → u.bufByte j = s.bufByte j) →
    ∃ t v, exec .entryDecode s = .next t ∧ exec .entryDecode u = .next v ∧
      t.status = 0x5001#32 ∧ v.status = 0x5001#32 ∧
      (v.ent.get 0).info.extractLsb' 0 10 = (t.ent.get 0).info.extractLsb' 0 10 ∧
      { v.ent.get 0 with info := 0 } = { t.ent.get 0 with info := 0 } ∧
      (s.bufByte 4 = 0x99#8 → (t.ent.get 0).info.getLsbD 11 = false)

/-! ## Errors and frames -/

/-- Each command records exactly the codes R202 lists for it, and an illegal word records IllegalCommand. -/
def Obligations.RecordedErrorCodes : Prop :=
  (∀ (i : Instr) (c : BitVec 4), (∃ e ∈ recordable i, e.code = c) ↔
    ∃ s t, exec i s = .next t ∧ statusErr t.status = c) ∧
  (∀ (i : Instr) (s : State), ∃ t, exec i s = .next t) ∧
  (∀ (w : Word) (e : DecodeError) (s : State), decode w = .error e →
    ∃ t, runCommand w s = .next t ∧ statusErr t.status = 2#4)

/-- Every `CMD` write ends with a legal `STATUS` word whose `OP` is bits 3:0 of the word and which is never the reset
value 0 (R25, R203, R231). -/
def Obligations.EveryCommandLeavesALegalStatus : Prop :=
  ∀ (w : Word) (s : State), ∃ t, runCommand w s = .next t ∧ statusLegal t.status = true ∧
    statusOp t.status = w.extractLsb' 0 4 ∧ t.status ≠ 0

/-- Errors 1, 2 and 3 are precise: the command writes only `STATUS`, with `VALID` = 0 (R205). -/
def Obligations.EarlyErrorsWriteStatusOnly : Prop :=
  ∀ (w : Word) (s : State), ∃ t, runCommand w s = .next t ∧
    (earlyError (statusErr t.status) = true →
      t = { s with status := t.status } ∧ statusValid t.status = false)

/-- No command's behaviour depends on an earlier command (R35): from two states with the same inputs, whatever their
result registers, flags and marks, a command leaves the same `STATUS`, and the same results unless it failed early. -/
def Obligations.CommandsDependOnTheirInputsOnly : Prop :=
  ∀ (i : Instr) (s u : State), sameInputs s u → ∃ t v, exec i s = .next t ∧ exec i u = .next v ∧
    v.status = t.status ∧ (earlyError (statusErr t.status) = false → sameResults i t v)

/-- Running a command again with unchanged inputs gives the same state (R24, R67). -/
def Obligations.CommandsAreIdempotent : Prop :=
  ∀ (w : Word) (s : State), ∃ t, runCommand w s = .next t ∧ runCommand w t = .next t

/-- The frame of the commands. VARINT_ENCODE, VARINT_DECODE, CHS_TO_LBA and LBA_TO_CHS change at most `RESA`, `RESB`,
`RESC` and `STATUS`; ENTRY_DECODE at most `ENT[0]` and `STATUS`; MBR_DECODE at most `SIG`, `ENT` and `STATUS`. None of
them stores: every byte of `IN_BUF` reads as before (R13, R27, R28, R161). -/
def Obligations.CommandFrames : Prop :=
  (∀ (i : Instr) (s t : State), i = .varintEncode ∨ i = .varintDecode ∨ i = .chsToLba ∨ i = .lbaToChs →
    exec i s = .next t →
    t = { s with
      resaLo := t.resaLo, resaHi := t.resaHi, resb := t.resb, resc := t.resc, status := t.status }) ∧
  (∀ s t : State, exec .entryDecode s = .next t →
    t = { s with ent := { s.ent with e0 := t.ent.e0 }, status := t.status }) ∧
  (∀ s t : State, exec .mbrDecode s = .next t → t = { s with sig := t.sig, ent := t.ent, status := t.status }) ∧
  (∀ (i : Instr) (s t : State), exec i s = .next t → ∀ a, t.bufByte a = s.bufByte a)

/-- No command changes `IN_LEN`; after an ENTRY_DECODE with `IN_LEN` = 16 an MBR_DECODE fails with LengthError unless the
host first writes 512 (R237). -/
def Obligations.StaleLengthFailsTheNextMbrDecode : Prop :=
  (∀ (i : Instr) (s : State), ∃ t, exec i s = .next t ∧ t.inLen = s.inLen) ∧
  (∀ s : State, s.inLen = 16 → ∃ t, exec .entryDecode s = .next t ∧ t.status = 0x5001#32 ∧
    exec .mbrDecode t = .next { t with status := 0x6010#32 } ∧
    ∃ u, exec .mbrDecode { t with inLen := 512 } = .next u ∧ u.status = 0x6001#32)

/-! ## Host accesses -/

/-- An aligned 8-, 16- or 32-bit host write to `IN_BUF` stores the value's bytes, least significant first, from its
offset on; every other byte reads as before and no register changes (R62, R64, R69). -/
def Obligations.HostWriteToBuffer : Prop :=
  ∀ (s : State) (rest : List Input) (a n : Nat) (v : Word),
    n = 1 ∨ n = 2 ∨ n = 4 → a % n = 0 → a < 512 →
    s.inputs = .access { kind := .write v, offset := a, width := 8 * n } :: rest →
    ∃ t, step s = .next t ∧ t = { s with inputs := rest, inBuf := t.inBuf } ∧
      ∀ b, (t.bufByte b).toNat =
        if a ≤ b ∧ b < a + n then v.toNat / 2 ^ (8 * (b - a)) % 256 else (s.bufByte b).toNat

/-- An aligned host read of `IN_BUF` returns the bytes from its offset on, the byte at the lowest offset least
significant, and has no side effect (R62, R67). -/
def Obligations.HostReadOfBuffer : Prop :=
  ∀ (s : State) (rest : List Input) (a : Nat), a < 512 →
    (s.inputs = .access { kind := .read, offset := a, width := 8 } :: rest →
      ∃ v : Word, step s = .next { s with inputs := rest, lastRead := some v } ∧ v.toNat = (s.bufByte a).toNat) ∧
    (s.inputs = .access { kind := .read, offset := a, width := 16 } :: rest → a % 2 = 0 →
      ∃ v : Word, step s = .next { s with inputs := rest, lastRead := some v } ∧
        v.toNat = (s.bufByte a).toNat + (s.bufByte (a + 1)).toNat * 2 ^ 8) ∧
    (s.inputs = .access { kind := .read, offset := a, width := 32 } :: rest → a % 4 = 0 →
      ∃ v : Word, step s = .next { s with inputs := rest, lastRead := some v } ∧
        v.toNat = (s.bufByte a).toNat + (s.bufByte (a + 1)).toNat * 2 ^ 8 + (s.bufByte (a + 2)).toNat * 2 ^ 16
          + (s.bufByte (a + 3)).toNat * 2 ^ 24)

/-- A 32-bit host read at 440 returns the value that MBR_DECODE writes to `SIG` (R62, R182). -/
def Obligations.HostReadAt440IsTheSignature : Prop :=
  ∀ (s : State) (rest : List Input), s.inLen = 512 →
    s.inputs = .access { kind := .read, offset := 440, width := 32 } :: rest →
    ∃ t u, step s = .next t ∧ exec .mbrDecode s = .next u ∧ t.lastRead = some u.sig

/-- The register map (R21, R32): a 32-bit host read at a register's offset returns that register and has no side
effect. -/
def Obligations.HostReadOfRegisters : Prop :=
  ∀ (s : State) (rest : List Input) (off : Nat) (v : Word),
    s.inputs = .access { kind := .read, offset := off, width := 32 } :: rest →
    (off = 0x200 ∧ v = s.inLen) ∨ (off = 0x204 ∧ v = s.cmd) ∨ (off = 0x208 ∧ v = s.status) ∨
      (off = 0x210 ∧ v = s.opaLo) ∨ (off = 0x214 ∧ v = s.opaHi) ∨ (off = 0x218 ∧ v = s.opb) ∨
      (off = 0x21C ∧ v = s.opc) ∨ (off = 0x220 ∧ v = s.resaLo) ∨ (off = 0x224 ∧ v = s.resaHi) ∨
      (off = 0x228 ∧ v = s.resb) ∨ (off = 0x22C ∧ v = s.resc) ∨ (off = 0x230 ∧ v = s.sig) ∨
      (∃ k : Fin 4, (off = 0x240 + 0x20 * k.val ∧ v = (s.ent.get k).info) ∨
        (off = 0x244 + 0x20 * k.val ∧ v = (s.ent.get k).schs) ∨
        (off = 0x248 + 0x20 * k.val ∧ v = (s.ent.get k).echs) ∨
        (off = 0x24C + 0x20 * k.val ∧ v = (s.ent.get k).lba) ∨
        (off = 0x250 + 0x20 * k.val ∧ v = (s.ent.get k).count) ∨
        (off = 0x254 + 0x20 * k.val ∧ v = (s.ent.get k).bytesLo) ∨
        (off = 0x258 + 0x20 * k.val ∧ v = (s.ent.get k).bytesHi) ∨
        (off = 0x25C + 0x20 * k.val ∧ v = (s.ent.get k).unit)) →
    step s = .next { s with inputs := rest, lastRead := some v }

/-- A 32-bit host write to a read/write register other than `CMD` stores the whole word and changes nothing else (R23,
R26, R38, R67). -/
def Obligations.HostWriteToRegisters : Prop :=
  ∀ (s : State) (rest : List Input) (off : Nat) (v : Word),
    s.inputs = .access { kind := .write v, offset := off, width := 32 } :: rest →
    (off = 0x200 → step s = .next { s with inputs := rest, inLen := v }) ∧
    (off = 0x210 → step s = .next { s with inputs := rest, opaLo := v }) ∧
    (off = 0x214 → step s = .next { s with inputs := rest, opaHi := v }) ∧
    (off = 0x218 → step s = .next { s with inputs := rest, opb := v }) ∧
    (off = 0x21C → step s = .next { s with inputs := rest, opc := v })

/-- A refused access (R66) sets the host-fault mark and changes no device state; a refused read returns no value. The
kinds of refused access, one by one: a misaligned one, one of a width not allowed at its offset, one to a reserved
offset, a write to a read-only register, one that crosses from `IN_BUF` into 0x200. That the run goes on, and what
`lastRead` holds, is the model's reading (log 6, log 7). -/
def Obligations.RefusedAccessSetsTheMarkOnly : Prop :=
  ∀ (s : State) (rest : List Input) (a : BusAccess), s.inputs = .access a :: rest → a.offset < 0x400 →
    (a.offset % (a.width / 8) ≠ 0 ∨
      (a.offset < 0x200 ∧ a.width ≠ 8 ∧ a.width ≠ 16 ∧ a.width ≠ 32) ∨ (0x200 ≤ a.offset ∧ a.width ≠ 32) ∨
      a.offset / 4 * 4 = 0x20C ∨ (0x234 ≤ a.offset ∧ a.offset < 0x240) ∨ 0x2C0 ≤ a.offset ∨
      (a.kind ≠ .read ∧ (a.offset / 4 * 4 = 0x208 ∨ 0x220 ≤ a.offset)) ∨
      (a.offset < 0x200 ∧ 0x200 < a.offset + a.width / 8)) →
    step s = .next
      { s with
        inputs := rest
        hostFault := true
        lastRead := if a.kind = .read then none else s.lastRead }

/-- An access that R66 does not list is allowed (R64, R219): the step has a next state, and the mark stays as it was. -/
def Obligations.OtherAccessesAreAllowed : Prop :=
  ∀ (s : State) (rest : List Input) (a : BusAccess), s.inputs = .access a :: rest →
    (a.offset < 0x200 ∧ (a.width = 8 ∨ a.width = 16 ∨ a.width = 32) ∧ a.offset % (a.width / 8) = 0) ∨
      (a.width = 32 ∧ a.offset % 4 = 0 ∧ 0x200 ≤ a.offset ∧ a.offset < 0x2C0 ∧ a.offset ≠ 0x20C ∧
        ¬(0x234 ≤ a.offset ∧ a.offset < 0x240) ∧
        (a.kind = .read ∨ (a.offset ≠ 0x208 ∧ a.offset < 0x220))) →
    ∃ t, step s = .next t ∧ t.hostFault = s.hostFault ∧ t.inputs = rest

/-- The host-fault mark is never cleared by an access or a command (R66). -/
def Obligations.TheMarkIsNeverClearedByAnAccess : Prop :=
  ∀ (s t : State) (a : BusAccess) (rest : List Input), s.inputs = .access a :: rest → s.hostFault = true →
    step s = .next t → t.hostFault = true

/-- A run that makes a refused access never again has a safe state: the mark is never cleared, by no step at all (a
platform reset included), and however many steps follow the refused access, the state they end in carries it (R66,
R218). That a reset within the run keeps the mark is the model's reading of R66 and R218 with R230 (log 8). -/
def Obligations.NoRunIsSafeAfterARefusedAccess : Prop :=
  (∀ s t : State, s.hostFault = true → step s = .next t → t.hostFault = true) ∧
  (∀ (n : Nat) (s : State) (a : BusAccess) (rest : List Input),
    s.inputs = .access a :: rest → refusedAccess a = true → ∃ t, run (n + 1) s = .next t ∧ t.safe = false)

/-- An access outside the window is refused, whatever its kind and width: it sets the mark and changes no device state.
That R66 covers it, as an access of a width that R64 does not allow at its offset, is the model's reading (log 5). -/
def Obligations.OutsideTheWindowIsRefused : Prop :=
  ∀ (s : State) (rest : List Input) (a : BusAccess), s.inputs = .access a :: rest → 0x400 ≤ a.offset →
    step s = .next
      { s with
        inputs := rest
        hostFault := true
        lastRead := if a.kind = .read then none else s.lastRead }

/-- The device never hangs, and no access or command has an outcome outside the rules (R219): every step has a next
state. A step that no input causes is the model's choice (log 1). -/
def Obligations.EveryStepHasAnOutcomeOfTheRules : Prop :=
  ∀ s : State, ∃ t, step s = .next t

/-- With no input left a step changes nothing: the model's choice, log 1. -/
def Obligations.IdleStepKeepsTheState : Prop :=
  ∀ s : State, s.inputs = [] → step s = .next s

/-- An address of the host's address space is in the window exactly when it is `P_BASE` plus an offset below 1024, and
then it is aligned as its offset is (R71). -/
def Obligations.WindowStandsAtItsBase : Prop :=
  Config.windowBase % 1024 = 0 ∧
  (∀ addr off, windowOffset Config.windowBase addr = some off ↔ off < 1024 ∧ addr = Config.windowBase + off) ∧
  (∀ addr off n, n = 1 ∨ n = 2 ∨ n = 4 → windowOffset Config.windowBase addr = some off →
    (addr % n = 0 ↔ off % n = 0))

/-! ## Reset -/

/-- The state after reset has every register at 0, the mark clear and every byte of `IN_BUF` unwritten, so that it reads as the
free value of its offset (R230). How a draw is represented is the model's choice, log 2. -/
def Obligations.ResetLeavesEveryRegisterZero : Prop :=
  State.reset.inLen = 0 ∧ State.reset.cmd = 0 ∧ State.reset.status = 0 ∧ State.reset.opaLo = 0 ∧
  State.reset.opaHi = 0 ∧ State.reset.opb = 0 ∧ State.reset.opc = 0 ∧ State.reset.resaLo = 0 ∧
  State.reset.resaHi = 0 ∧ State.reset.resb = 0 ∧ State.reset.resc = 0 ∧ State.reset.sig = 0 ∧
  (∀ k, State.reset.ent.get k = EntBlock.zero) ∧ State.reset.hostFault = false ∧
  ∀ a, State.reset.bufByte a = Config.inBufDraw State.reset.drawEpoch a

/-- The platform's reset puts every register back to its reset value at any time, with new draws of the buffer (R230,
R233). That a mark set earlier in the run stays set, as R66 and R218 say, and that the host's own script and last read
survive, is the model's reading and its choice (log 8). -/
def Obligations.PlatformResetRestoresTheDevice : Prop :=
  ∀ (s : State) (rest : List Input), s.inputs = .reset :: rest →
    step s = .next
      { State.reset with
        hostFault := s.hostFault
        inputs := rest
        lastRead := s.lastRead
        drawEpoch := s.drawEpoch + 1 }

/-! ## The invariant -/

/-- The buffer's canonical form makes equal contents equal data, and writes to different bytes commute (log 9; R69,
R235). -/
def Obligations.EqualBuffersAreEqualData : Prop :=
  (∀ m n : Memory, m.wf = true → n.wf = true → (∀ a, m.read a = n.read a) → m = n) ∧
  (∀ (m : Memory) (a b : Nat) (v w : Byte), m.wf = true → a < 512 → b < 512 → a ≠ b →
    (m.write a v).write b w = (m.write b w).write a v)

/-- The invariant holds after reset. -/
def Obligations.ResetMeetsTheInvariant : Prop := Inv State.reset

/-- Every step keeps the invariant, from every state that meets it. -/
def Obligations.EveryStepKeepsTheInvariant : Prop :=
  ∀ s t : State, Inv s → step s = .next t → Inv t
end

