-- ==== Sys2Proof/Laws/State.lean ====
section
/-! SUPPORT. One lemma for each field under each named update of the state, so that no proof unfolds a record
update. -/

namespace Sys2Proof.Machine

/-! ## `setResults` -/

@[simp] theorem State.setResults_inBuf (s : State) (r : BitVec 64) (b c : Word) :
    (s.setResults r b c).inBuf = s.inBuf := rfl

@[simp] theorem State.setResults_inLen (s : State) (r : BitVec 64) (b c : Word) :
    (s.setResults r b c).inLen = s.inLen := rfl

@[simp] theorem State.setResults_cmd (s : State) (r : BitVec 64) (b c : Word) :
    (s.setResults r b c).cmd = s.cmd := rfl

@[simp] theorem State.setResults_status (s : State) (r : BitVec 64) (b c : Word) :
    (s.setResults r b c).status = s.status := rfl

@[simp] theorem State.setResults_opaLo (s : State) (r : BitVec 64) (b c : Word) :
    (s.setResults r b c).opaLo = s.opaLo := rfl

@[simp] theorem State.setResults_opaHi (s : State) (r : BitVec 64) (b c : Word) :
    (s.setResults r b c).opaHi = s.opaHi := rfl

@[simp] theorem State.setResults_opb (s : State) (r : BitVec 64) (b c : Word) :
    (s.setResults r b c).opb = s.opb := rfl

@[simp] theorem State.setResults_opc (s : State) (r : BitVec 64) (b c : Word) :
    (s.setResults r b c).opc = s.opc := rfl

@[simp] theorem State.setResults_resaLo (s : State) (r : BitVec 64) (b c : Word) :
    (s.setResults r b c).resaLo = r.extractLsb' 0 32 := rfl

@[simp] theorem State.setResults_resaHi (s : State) (r : BitVec 64) (b c : Word) :
    (s.setResults r b c).resaHi = r.extractLsb' 32 32 := rfl

@[simp] theorem State.setResults_resb (s : State) (r : BitVec 64) (b c : Word) :
    (s.setResults r b c).resb = b := rfl

@[simp] theorem State.setResults_resc (s : State) (r : BitVec 64) (b c : Word) :
    (s.setResults r b c).resc = c := rfl

@[simp] theorem State.setResults_sig (s : State) (r : BitVec 64) (b c : Word) :
    (s.setResults r b c).sig = s.sig := rfl

@[simp] theorem State.setResults_ent (s : State) (r : BitVec 64) (b c : Word) :
    (s.setResults r b c).ent = s.ent := rfl

@[simp] theorem State.setResults_hostFault (s : State) (r : BitVec 64) (b c : Word) :
    (s.setResults r b c).hostFault = s.hostFault := rfl

@[simp] theorem State.setResults_inputs (s : State) (r : BitVec 64) (b c : Word) :
    (s.setResults r b c).inputs = s.inputs := rfl

@[simp] theorem State.setResults_lastRead (s : State) (r : BitVec 64) (b c : Word) :
    (s.setResults r b c).lastRead = s.lastRead := rfl

@[simp] theorem State.setResults_drawEpoch (s : State) (r : BitVec 64) (b c : Word) :
    (s.setResults r b c).drawEpoch = s.drawEpoch := rfl

/-! ## `setEnt` -/

@[simp] theorem State.setEnt_inBuf (s : State) (k : Fin 4) (b : EntBlock) :
    (s.setEnt k b).inBuf = s.inBuf := rfl

@[simp] theorem State.setEnt_inLen (s : State) (k : Fin 4) (b : EntBlock) :
    (s.setEnt k b).inLen = s.inLen := rfl

@[simp] theorem State.setEnt_cmd (s : State) (k : Fin 4) (b : EntBlock) :
    (s.setEnt k b).cmd = s.cmd := rfl

@[simp] theorem State.setEnt_status (s : State) (k : Fin 4) (b : EntBlock) :
    (s.setEnt k b).status = s.status := rfl

@[simp] theorem State.setEnt_opaLo (s : State) (k : Fin 4) (b : EntBlock) :
    (s.setEnt k b).opaLo = s.opaLo := rfl

@[simp] theorem State.setEnt_opaHi (s : State) (k : Fin 4) (b : EntBlock) :
    (s.setEnt k b).opaHi = s.opaHi := rfl

@[simp] theorem State.setEnt_opb (s : State) (k : Fin 4) (b : EntBlock) :
    (s.setEnt k b).opb = s.opb := rfl

@[simp] theorem State.setEnt_opc (s : State) (k : Fin 4) (b : EntBlock) :
    (s.setEnt k b).opc = s.opc := rfl

@[simp] theorem State.setEnt_resaLo (s : State) (k : Fin 4) (b : EntBlock) :
    (s.setEnt k b).resaLo = s.resaLo := rfl

@[simp] theorem State.setEnt_resaHi (s : State) (k : Fin 4) (b : EntBlock) :
    (s.setEnt k b).resaHi = s.resaHi := rfl

@[simp] theorem State.setEnt_resb (s : State) (k : Fin 4) (b : EntBlock) :
    (s.setEnt k b).resb = s.resb := rfl

@[simp] theorem State.setEnt_resc (s : State) (k : Fin 4) (b : EntBlock) :
    (s.setEnt k b).resc = s.resc := rfl

@[simp] theorem State.setEnt_sig (s : State) (k : Fin 4) (b : EntBlock) :
    (s.setEnt k b).sig = s.sig := rfl

@[simp] theorem State.setEnt_ent (s : State) (k : Fin 4) (b : EntBlock) :
    (s.setEnt k b).ent = s.ent.set k b := rfl

@[simp] theorem State.setEnt_hostFault (s : State) (k : Fin 4) (b : EntBlock) :
    (s.setEnt k b).hostFault = s.hostFault := rfl

@[simp] theorem State.setEnt_inputs (s : State) (k : Fin 4) (b : EntBlock) :
    (s.setEnt k b).inputs = s.inputs := rfl

@[simp] theorem State.setEnt_lastRead (s : State) (k : Fin 4) (b : EntBlock) :
    (s.setEnt k b).lastRead = s.lastRead := rfl

@[simp] theorem State.setEnt_drawEpoch (s : State) (k : Fin 4) (b : EntBlock) :
    (s.setEnt k b).drawEpoch = s.drawEpoch := rfl

/-! ## `setSig` -/

@[simp] theorem State.setSig_inBuf (s : State) (v : Word) :
    (s.setSig v).inBuf = s.inBuf := rfl

@[simp] theorem State.setSig_inLen (s : State) (v : Word) :
    (s.setSig v).inLen = s.inLen := rfl

@[simp] theorem State.setSig_cmd (s : State) (v : Word) :
    (s.setSig v).cmd = s.cmd := rfl

@[simp] theorem State.setSig_status (s : State) (v : Word) :
    (s.setSig v).status = s.status := rfl

@[simp] theorem State.setSig_opaLo (s : State) (v : Word) :
    (s.setSig v).opaLo = s.opaLo := rfl

@[simp] theorem State.setSig_opaHi (s : State) (v : Word) :
    (s.setSig v).opaHi = s.opaHi := rfl

@[simp] theorem State.setSig_opb (s : State) (v : Word) :
    (s.setSig v).opb = s.opb := rfl

@[simp] theorem State.setSig_opc (s : State) (v : Word) :
    (s.setSig v).opc = s.opc := rfl

@[simp] theorem State.setSig_resaLo (s : State) (v : Word) :
    (s.setSig v).resaLo = s.resaLo := rfl

@[simp] theorem State.setSig_resaHi (s : State) (v : Word) :
    (s.setSig v).resaHi = s.resaHi := rfl

@[simp] theorem State.setSig_resb (s : State) (v : Word) :
    (s.setSig v).resb = s.resb := rfl

@[simp] theorem State.setSig_resc (s : State) (v : Word) :
    (s.setSig v).resc = s.resc := rfl

@[simp] theorem State.setSig_sig (s : State) (v : Word) :
    (s.setSig v).sig = v := rfl

@[simp] theorem State.setSig_ent (s : State) (v : Word) :
    (s.setSig v).ent = s.ent := rfl

@[simp] theorem State.setSig_hostFault (s : State) (v : Word) :
    (s.setSig v).hostFault = s.hostFault := rfl

@[simp] theorem State.setSig_inputs (s : State) (v : Word) :
    (s.setSig v).inputs = s.inputs := rfl

@[simp] theorem State.setSig_lastRead (s : State) (v : Word) :
    (s.setSig v).lastRead = s.lastRead := rfl

@[simp] theorem State.setSig_drawEpoch (s : State) (v : Word) :
    (s.setSig v).drawEpoch = s.drawEpoch := rfl

/-! ## `setStatus` -/

@[simp] theorem State.setStatus_inBuf (s : State) (op : BitVec 4) (e : ErrCode) (m o : Bool) :
    (s.setStatus op e m o).inBuf = s.inBuf := rfl

@[simp] theorem State.setStatus_inLen (s : State) (op : BitVec 4) (e : ErrCode) (m o : Bool) :
    (s.setStatus op e m o).inLen = s.inLen := rfl

@[simp] theorem State.setStatus_cmd (s : State) (op : BitVec 4) (e : ErrCode) (m o : Bool) :
    (s.setStatus op e m o).cmd = s.cmd := rfl

@[simp] theorem State.setStatus_status (s : State) (op : BitVec 4) (e : ErrCode) (m o : Bool) :
    (s.setStatus op e m o).status = statusWord op e m o := rfl

@[simp] theorem State.setStatus_opaLo (s : State) (op : BitVec 4) (e : ErrCode) (m o : Bool) :
    (s.setStatus op e m o).opaLo = s.opaLo := rfl

@[simp] theorem State.setStatus_opaHi (s : State) (op : BitVec 4) (e : ErrCode) (m o : Bool) :
    (s.setStatus op e m o).opaHi = s.opaHi := rfl

@[simp] theorem State.setStatus_opb (s : State) (op : BitVec 4) (e : ErrCode) (m o : Bool) :
    (s.setStatus op e m o).opb = s.opb := rfl

@[simp] theorem State.setStatus_opc (s : State) (op : BitVec 4) (e : ErrCode) (m o : Bool) :
    (s.setStatus op e m o).opc = s.opc := rfl

@[simp] theorem State.setStatus_resaLo (s : State) (op : BitVec 4) (e : ErrCode) (m o : Bool) :
    (s.setStatus op e m o).resaLo = s.resaLo := rfl

@[simp] theorem State.setStatus_resaHi (s : State) (op : BitVec 4) (e : ErrCode) (m o : Bool) :
    (s.setStatus op e m o).resaHi = s.resaHi := rfl

@[simp] theorem State.setStatus_resb (s : State) (op : BitVec 4) (e : ErrCode) (m o : Bool) :
    (s.setStatus op e m o).resb = s.resb := rfl

@[simp] theorem State.setStatus_resc (s : State) (op : BitVec 4) (e : ErrCode) (m o : Bool) :
    (s.setStatus op e m o).resc = s.resc := rfl

@[simp] theorem State.setStatus_sig (s : State) (op : BitVec 4) (e : ErrCode) (m o : Bool) :
    (s.setStatus op e m o).sig = s.sig := rfl

@[simp] theorem State.setStatus_ent (s : State) (op : BitVec 4) (e : ErrCode) (m o : Bool) :
    (s.setStatus op e m o).ent = s.ent := rfl

@[simp] theorem State.setStatus_hostFault (s : State) (op : BitVec 4) (e : ErrCode) (m o : Bool) :
    (s.setStatus op e m o).hostFault = s.hostFault := rfl

@[simp] theorem State.setStatus_inputs (s : State) (op : BitVec 4) (e : ErrCode) (m o : Bool) :
    (s.setStatus op e m o).inputs = s.inputs := rfl

@[simp] theorem State.setStatus_lastRead (s : State) (op : BitVec 4) (e : ErrCode) (m o : Bool) :
    (s.setStatus op e m o).lastRead = s.lastRead := rfl

@[simp] theorem State.setStatus_drawEpoch (s : State) (op : BitVec 4) (e : ErrCode) (m o : Bool) :
    (s.setStatus op e m o).drawEpoch = s.drawEpoch := rfl

/-! ## `writeBufByte` -/

@[simp] theorem State.writeBufByte_inBuf (s : State) (a : Nat) (v : Byte) :
    (s.writeBufByte a v).inBuf = s.inBuf.write a v := rfl

@[simp] theorem State.writeBufByte_inLen (s : State) (a : Nat) (v : Byte) :
    (s.writeBufByte a v).inLen = s.inLen := rfl

@[simp] theorem State.writeBufByte_cmd (s : State) (a : Nat) (v : Byte) :
    (s.writeBufByte a v).cmd = s.cmd := rfl

@[simp] theorem State.writeBufByte_status (s : State) (a : Nat) (v : Byte) :
    (s.writeBufByte a v).status = s.status := rfl

@[simp] theorem State.writeBufByte_opaLo (s : State) (a : Nat) (v : Byte) :
    (s.writeBufByte a v).opaLo = s.opaLo := rfl

@[simp] theorem State.writeBufByte_opaHi (s : State) (a : Nat) (v : Byte) :
    (s.writeBufByte a v).opaHi = s.opaHi := rfl

@[simp] theorem State.writeBufByte_opb (s : State) (a : Nat) (v : Byte) :
    (s.writeBufByte a v).opb = s.opb := rfl

@[simp] theorem State.writeBufByte_opc (s : State) (a : Nat) (v : Byte) :
    (s.writeBufByte a v).opc = s.opc := rfl

@[simp] theorem State.writeBufByte_resaLo (s : State) (a : Nat) (v : Byte) :
    (s.writeBufByte a v).resaLo = s.resaLo := rfl

@[simp] theorem State.writeBufByte_resaHi (s : State) (a : Nat) (v : Byte) :
    (s.writeBufByte a v).resaHi = s.resaHi := rfl

@[simp] theorem State.writeBufByte_resb (s : State) (a : Nat) (v : Byte) :
    (s.writeBufByte a v).resb = s.resb := rfl

@[simp] theorem State.writeBufByte_resc (s : State) (a : Nat) (v : Byte) :
    (s.writeBufByte a v).resc = s.resc := rfl

@[simp] theorem State.writeBufByte_sig (s : State) (a : Nat) (v : Byte) :
    (s.writeBufByte a v).sig = s.sig := rfl

@[simp] theorem State.writeBufByte_ent (s : State) (a : Nat) (v : Byte) :
    (s.writeBufByte a v).ent = s.ent := rfl

@[simp] theorem State.writeBufByte_hostFault (s : State) (a : Nat) (v : Byte) :
    (s.writeBufByte a v).hostFault = s.hostFault := rfl

@[simp] theorem State.writeBufByte_inputs (s : State) (a : Nat) (v : Byte) :
    (s.writeBufByte a v).inputs = s.inputs := rfl

@[simp] theorem State.writeBufByte_lastRead (s : State) (a : Nat) (v : Byte) :
    (s.writeBufByte a v).lastRead = s.lastRead := rfl

@[simp] theorem State.writeBufByte_drawEpoch (s : State) (a : Nat) (v : Byte) :
    (s.writeBufByte a v).drawEpoch = s.drawEpoch := rfl

/-! ## `refuseAccess` -/

@[simp] theorem State.refuseAccess_inBuf (s : State) (k : AccessKind) :
    (s.refuseAccess k).inBuf = s.inBuf := rfl

@[simp] theorem State.refuseAccess_inLen (s : State) (k : AccessKind) :
    (s.refuseAccess k).inLen = s.inLen := rfl

@[simp] theorem State.refuseAccess_cmd (s : State) (k : AccessKind) :
    (s.refuseAccess k).cmd = s.cmd := rfl

@[simp] theorem State.refuseAccess_status (s : State) (k : AccessKind) :
    (s.refuseAccess k).status = s.status := rfl

@[simp] theorem State.refuseAccess_opaLo (s : State) (k : AccessKind) :
    (s.refuseAccess k).opaLo = s.opaLo := rfl

@[simp] theorem State.refuseAccess_opaHi (s : State) (k : AccessKind) :
    (s.refuseAccess k).opaHi = s.opaHi := rfl

@[simp] theorem State.refuseAccess_opb (s : State) (k : AccessKind) :
    (s.refuseAccess k).opb = s.opb := rfl

@[simp] theorem State.refuseAccess_opc (s : State) (k : AccessKind) :
    (s.refuseAccess k).opc = s.opc := rfl

@[simp] theorem State.refuseAccess_resaLo (s : State) (k : AccessKind) :
    (s.refuseAccess k).resaLo = s.resaLo := rfl

@[simp] theorem State.refuseAccess_resaHi (s : State) (k : AccessKind) :
    (s.refuseAccess k).resaHi = s.resaHi := rfl

@[simp] theorem State.refuseAccess_resb (s : State) (k : AccessKind) :
    (s.refuseAccess k).resb = s.resb := rfl

@[simp] theorem State.refuseAccess_resc (s : State) (k : AccessKind) :
    (s.refuseAccess k).resc = s.resc := rfl

@[simp] theorem State.refuseAccess_sig (s : State) (k : AccessKind) :
    (s.refuseAccess k).sig = s.sig := rfl

@[simp] theorem State.refuseAccess_ent (s : State) (k : AccessKind) :
    (s.refuseAccess k).ent = s.ent := rfl

@[simp] theorem State.refuseAccess_hostFault (s : State) (k : AccessKind) :
    (s.refuseAccess k).hostFault = true := rfl

@[simp] theorem State.refuseAccess_inputs (s : State) (k : AccessKind) :
    (s.refuseAccess k).inputs = s.inputs := rfl

@[simp] theorem State.refuseAccess_lastRead (s : State) (k : AccessKind) :
    (s.refuseAccess k).lastRead = (match k with | .read => none | .write _ => s.lastRead) := rfl

@[simp] theorem State.refuseAccess_drawEpoch (s : State) (k : AccessKind) :
    (s.refuseAccess k).drawEpoch = s.drawEpoch := rfl

/-! ## `platformReset` -/

@[simp] theorem State.platformReset_inBuf (s : State) :
    (s.platformReset).inBuf = State.reset.inBuf := rfl

@[simp] theorem State.platformReset_inLen (s : State) :
    (s.platformReset).inLen = State.reset.inLen := rfl

@[simp] theorem State.platformReset_cmd (s : State) :
    (s.platformReset).cmd = State.reset.cmd := rfl

@[simp] theorem State.platformReset_status (s : State) :
    (s.platformReset).status = State.reset.status := rfl

@[simp] theorem State.platformReset_opaLo (s : State) :
    (s.platformReset).opaLo = State.reset.opaLo := rfl

@[simp] theorem State.platformReset_opaHi (s : State) :
    (s.platformReset).opaHi = State.reset.opaHi := rfl

@[simp] theorem State.platformReset_opb (s : State) :
    (s.platformReset).opb = State.reset.opb := rfl

@[simp] theorem State.platformReset_opc (s : State) :
    (s.platformReset).opc = State.reset.opc := rfl

@[simp] theorem State.platformReset_resaLo (s : State) :
    (s.platformReset).resaLo = State.reset.resaLo := rfl

@[simp] theorem State.platformReset_resaHi (s : State) :
    (s.platformReset).resaHi = State.reset.resaHi := rfl

@[simp] theorem State.platformReset_resb (s : State) :
    (s.platformReset).resb = State.reset.resb := rfl

@[simp] theorem State.platformReset_resc (s : State) :
    (s.platformReset).resc = State.reset.resc := rfl

@[simp] theorem State.platformReset_sig (s : State) :
    (s.platformReset).sig = State.reset.sig := rfl

@[simp] theorem State.platformReset_ent (s : State) :
    (s.platformReset).ent = State.reset.ent := rfl

@[simp] theorem State.platformReset_hostFault (s : State) :
    (s.platformReset).hostFault = s.hostFault := rfl

@[simp] theorem State.platformReset_inputs (s : State) :
    (s.platformReset).inputs = s.inputs := rfl

@[simp] theorem State.platformReset_lastRead (s : State) :
    (s.platformReset).lastRead = s.lastRead := rfl

@[simp] theorem State.platformReset_drawEpoch (s : State) :
    (s.platformReset).drawEpoch = s.drawEpoch + 1 := rfl

/-! ## The fields after reset (R230) -/

@[simp] theorem State.reset_inBuf : State.reset.inBuf = [] := rfl

@[simp] theorem State.reset_inLen : State.reset.inLen = 0 := rfl

@[simp] theorem State.reset_cmd : State.reset.cmd = 0 := rfl

@[simp] theorem State.reset_status : State.reset.status = 0 := rfl

@[simp] theorem State.reset_opaLo : State.reset.opaLo = 0 := rfl

@[simp] theorem State.reset_opaHi : State.reset.opaHi = 0 := rfl

@[simp] theorem State.reset_opb : State.reset.opb = 0 := rfl

@[simp] theorem State.reset_opc : State.reset.opc = 0 := rfl

@[simp] theorem State.reset_resaLo : State.reset.resaLo = 0 := rfl

@[simp] theorem State.reset_resaHi : State.reset.resaHi = 0 := rfl

@[simp] theorem State.reset_resb : State.reset.resb = 0 := rfl

@[simp] theorem State.reset_resc : State.reset.resc = 0 := rfl

@[simp] theorem State.reset_sig : State.reset.sig = 0 := rfl

@[simp] theorem State.reset_ent : State.reset.ent = ⟨.zero, .zero, .zero, .zero⟩ := rfl

@[simp] theorem State.reset_hostFault : State.reset.hostFault = false := rfl

@[simp] theorem State.reset_inputs : State.reset.inputs = [] := rfl

@[simp] theorem State.reset_lastRead : State.reset.lastRead = none := rfl

@[simp] theorem State.reset_drawEpoch : State.reset.drawEpoch = 0 := rfl

/-! ## The entry file -/

@[simp] theorem EntFile.get_set_self (f : EntFile) (k : Fin 4) (b : EntBlock) : (f.set k b).get k = b := by
  fin_cases k <;> rfl

theorem EntFile.get_set_ne (f : EntFile) (k j : Fin 4) (b : EntBlock) (h : j ≠ k) :
    (f.set k b).get j = f.get j := by
  fin_cases k <;> fin_cases j <;> first | rfl | exact absurd rfl h

@[simp] theorem EntFile.set_set (f : EntFile) (k : Fin 4) (b c : EntBlock) : (f.set k b).set k c = f.set k c := by
  fin_cases k <;> rfl

theorem EntFile.ext_get (f g : EntFile) (h : ∀ k, f.get k = g.get k) : f = g := by
  cases f
  cases g
  simp only [EntFile.mk.injEq]
  exact ⟨h 0, h 1, h 2, h 3⟩

end Sys2Proof.Machine
end

