-- ==== Sys2Proof/Laws/Bits.lean ====
section
/-! SUPPORT. The words the device puts together, as numbers. -/

namespace Sys2Proof.Machine

/-- Concatenation is a shift and a sum. -/
theorem toNat_append_add {n m : Nat} (a : BitVec n) (b : BitVec m) :
    (a ++ b).toNat = a.toNat * 2 ^ m + b.toNat := by
  rw [BitVec.toNat_append, ← Nat.shiftLeft_add_eq_or_of_lt b.isLt, Nat.shiftLeft_eq]

/-- `OPA` as a number (R26). -/
theorem State.opa_toNat (s : State) : s.opa.toNat = s.opaHi.toNat * 2 ^ 32 + s.opaLo.toNat :=
  toNat_append_add _ _

/-- The packed operand as a number, where its must-be-zero bits are 0 (R29, R86). -/
theorem State.packedOperand_toNat (s : State) (h : s.opb.toNat < 2 ^ 16) :
    s.packedOperand.toNat = s.opb.toNat * 2 ^ 64 + s.opaHi.toNat * 2 ^ 32 + s.opaLo.toNat := by
  unfold State.packedOperand
  rw [toNat_append_add, toNat_append_add]
  simp
  omega

theorem State.opbUpper_eq_zero_iff (s : State) : s.opbUpper = 0#16 ↔ s.opb.toNat < 2 ^ 16 := by
  have := s.opb.isLt
  rw [← BitVec.toNat_inj]
  simp [State.opbUpper, Nat.shiftRight_eq_div_pow]
  omega

/-- `le32` as a number (R13). -/
theorem le32_toNat (a b c d : Byte) :
    (le32 a b c d).toNat = a.toNat + b.toNat * 2 ^ 8 + c.toNat * 2 ^ 16 + d.toNat * 2 ^ 24 := by
  unfold le32
  rw [toNat_append_add, toNat_append_add, toNat_append_add]
  omega

/-- A CHS register as a number (R34). -/
theorem chsWord_toNat (t : ChsTriple) :
    (chsWord t).toNat = t.cyl.toNat * 2 ^ 16 + t.sect.toNat * 2 ^ 8 + t.head.toNat := by
  unfold chsWord
  rw [toNat_append_add, toNat_append_add, toNat_append_add, toNat_append_add]
  simp
  omega

/-- `ENT_INFO` as a number (R33). -/
theorem infoWord_toNat (r : EntryRecord) :
    (infoWord r).toNat = r.type.toNat * 2 ^ 16 + r.known.toNat * 2 ^ 11 + r.empty.toNat * 2 ^ 10
      + r.sclass.code.toNat * 2 ^ 8 + r.status.toNat := by
  unfold infoWord
  rw [toNat_append_add, toNat_append_add, toNat_append_add, toNat_append_add, toNat_append_add, toNat_append_add]
  simp only [BitVec.toNat_ofBool]
  simp
  omega

/-- The `STATUS` word VARINT_DECODE leaves, by its two verdicts (R114, R204). -/
theorem statusWord_varintDecode (wf : Bool) (v : Nat) :
    statusWord 0x2#4 (varintErr (!wf) (decide (2 ^ 64 ≤ v))) (!wf) (decide (2 ^ 64 ≤ v)) =
      if wf = false ∧ 2 ^ 64 ≤ v then 0x2340#32
      else if wf = false then 0x2140#32
      else if 2 ^ 64 ≤ v then 0x2250#32
      else 0x2001#32 := by
  by_cases h : 2 ^ 64 ≤ v
  · rw [decide_eq_true h, if_pos h]
    cases wf
    · rw [if_pos ⟨rfl, h⟩]
      decide
    · rw [if_neg (by simp), if_neg (by simp)]
      decide
  · rw [decide_eq_false h, if_neg h, if_neg fun hh => h hh.2]
    cases wf
    · rw [if_pos rfl]
      decide
    · rw [if_neg (by simp)]
      decide

end Sys2Proof.Machine
end

