-- ==== Sys2Proof/Laws/Memory.lean ====
section
/-! SUPPORT. The buffer's laws: a read after a write, the canonical form kept by every operation, and what a sequence
of byte writes leaves. -/

namespace Sys2Proof.Machine

/-! ## The list of written bytes -/

@[simp] theorem Memory.read_nil (a : Nat) : Memory.read [] a = none := rfl

theorem Memory.read_write (m : Memory) (a b : Nat) (v : Byte) :
    (m.write a v).read b = if b = a then some v else m.read b := by
  induction m with
  | nil => simp [Memory.write, Memory.read]
  | cons c m ih =>
    obtain ⟨k, w⟩ := c
    simp only [Memory.write]
    split
    · simp [Memory.read]
    · split
      · rename_i h
        subst h
        simp only [Memory.read]
        split <;> rfl
      · simp only [Memory.read, ih]
        split
        · rename_i h
          subst h
          split
          · rename_i h
            exact absurd h.symm ‹_›
          · rfl
        · rfl

/-- The canonical form of a list with a head: the head's offset is in `IN_BUF`, and below every later one. -/
theorem Memory.wf_cons (a : Nat) (v : Byte) (m : Memory) :
    Memory.wf ((a, v) :: m) = true ↔
      a < Config.mbrBytes ∧ (∀ c ∈ m, a < c.1) ∧ Memory.wf m = true := by
  induction m generalizing a v with
  | nil => simp [Memory.wf]
  | cons c m ih =>
    obtain ⟨b, w⟩ := c
    simp only [Memory.wf, Bool.and_eq_true, decide_eq_true_eq, List.mem_cons, forall_eq_or_imp, ih]
    constructor
    · rintro ⟨h, h1, h2, h3⟩
      exact ⟨by omega, ⟨h, fun c hc => by have := h2 c hc; omega⟩, h1, h2, h3⟩
    · rintro ⟨_, ⟨h, _⟩, h1, h2, h3⟩
      exact ⟨h, h1, h2, h3⟩

theorem Memory.mem_write (m : Memory) (a : Nat) (v : Byte) (c : Host.Cell) (h : c ∈ m.write a v) :
    c = (a, v) ∨ c ∈ m := by
  induction m with
  | nil => simpa [Memory.write] using h
  | cons d m ih =>
    obtain ⟨k, w⟩ := d
    simp only [Memory.write] at h
    split at h
    · simpa using h
    · split at h
      · rcases List.mem_cons.mp h with h | h
        · exact .inl h
        · exact .inr (List.mem_cons_of_mem _ h)
      · rcases List.mem_cons.mp h with h | h
        · exact .inr (by simp [h])
        · rcases ih h with h | h
          · exact .inl h
          · exact .inr (List.mem_cons_of_mem _ h)

/-- A write inside `IN_BUF` keeps the canonical form. -/
theorem Memory.write_wf (m : Memory) (a : Nat) (v : Byte) (hm : m.wf = true) (ha : a < Config.mbrBytes) :
    (m.write a v).wf = true := by
  induction m with
  | nil => simpa [Memory.write, Memory.wf] using ha
  | cons c m ih =>
    obtain ⟨k, w⟩ := c
    have hc := (Memory.wf_cons k w m).mp hm
    simp only [Memory.write]
    split
    · rename_i hlt
      refine (Memory.wf_cons _ _ _).mpr ⟨ha, fun c hc' => ?_, hm⟩
      rcases List.mem_cons.mp hc' with h | h
      · simpa [h] using hlt
      · exact hlt.trans (hc.2.1 c h)
    · split
      · rename_i h
        subst h
        exact (Memory.wf_cons _ _ _).mpr ⟨ha, hc.2.1, hc.2.2⟩
      · refine (Memory.wf_cons _ _ _).mpr ⟨hc.1, fun c hc' => ?_, ih hc.2.2⟩
        rcases Memory.mem_write m a v c hc' with h | h
        · subst h
          show k < a
          omega
        · exact hc.2.1 c h

theorem State.reset_inBuf_wf : State.reset.inBuf.wf = true := rfl

/-! ## Bytes of the buffer -/

/-- The byte the device reads after one byte write. -/
theorem State.bufByte_writeBufByte (s : State) (a b : Nat) (v : Byte) :
    (s.writeBufByte a v).bufByte b = if b = a then v else s.bufByte b := by
  unfold State.bufByte
  simp only [State.writeBufByte_inBuf, State.writeBufByte_drawEpoch, Memory.read_write]
  by_cases h : b = a <;> simp [h]

/-- The bytes the device reads depend on the written bytes and the reset number alone. -/
theorem State.bufByte_congr {s t : State} (hb : t.inBuf = s.inBuf) (he : t.drawEpoch = s.drawEpoch) (a : Nat) :
    t.bufByte a = s.bufByte a := by
  simp only [State.bufByte, hb, he]

@[simp] theorem State.bufByte_setResults (s : State) (r : BitVec 64) (b c : Word) (a : Nat) :
    (s.setResults r b c).bufByte a = s.bufByte a := rfl

@[simp] theorem State.bufByte_setEnt (s : State) (k : Fin 4) (b : EntBlock) (a : Nat) :
    (s.setEnt k b).bufByte a = s.bufByte a := rfl

@[simp] theorem State.bufByte_setSig (s : State) (v : Word) (a : Nat) : (s.setSig v).bufByte a = s.bufByte a := rfl

@[simp] theorem State.bufByte_setStatus (s : State) (op : BitVec 4) (e : ErrCode) (m o : Bool) (a : Nat) :
    (s.setStatus op e m o).bufByte a = s.bufByte a := rfl

@[simp] theorem State.bufByte_refuseAccess (s : State) (k : AccessKind) (a : Nat) :
    (s.refuseAccess k).bufByte a = s.bufByte a := rfl

/-- `MemWrite` changes no field but the buffer. -/
theorem State.memWrite_frame (s : State) (a : Nat) (v : Word) (n : Nat) :
    s.memWrite a v n = { s with inBuf := (s.memWrite a v n).inBuf } := by
  induction n with
  | zero => rfl
  | succ n ih =>
    show (s.memWrite a v n).writeBufByte (a + n) (wordByte v n) = _
    rw [ih]
    rfl

/-- `MemWrite` inside `IN_BUF` keeps the canonical form. -/
theorem State.memWrite_wf (s : State) (a : Nat) (v : Word) (n : Nat) (hm : s.inBuf.wf = true)
    (ha : a + n ≤ Config.mbrBytes) : (s.memWrite a v n).inBuf.wf = true := by
  induction n with
  | zero => exact hm
  | succ n ih => exact Memory.write_wf _ _ _ (ih (by omega)) (by omega)

/-- Every byte after `MemWrite` (R64): the bytes of the value inside the access, every other byte as before. -/
theorem State.bufByte_memWrite (s : State) (a : Nat) (v : Word) (n b : Nat) :
    (s.memWrite a v n).bufByte b =
      if a ≤ b ∧ b < a + n then wordByte v (b - a) else s.bufByte b := by
  induction n with
  | zero =>
    simp [State.memWrite]
  | succ n ih =>
    show ((s.memWrite a v n).writeBufByte (a + n) (wordByte v n)).bufByte b = _
    rw [State.bufByte_writeBufByte, ih]
    by_cases h : b = a + n
    · subst h
      simp
    · have : (a ≤ b ∧ b < a + n) ↔ (a ≤ b ∧ b < a + (n + 1)) := by omega
      simp only [h, if_false, this]

/-- `MemRead` depends on the bytes it reads alone. -/
theorem State.memRead_congr {s t : State} (a n : Nat) (h : ∀ j < n, t.bufByte (a + j) = s.bufByte (a + j)) :
    t.memRead a n = s.memRead a n := by
  induction n with
  | zero => rfl
  | succ n ih =>
    simp only [State.memRead, h n (by omega), ih fun j hj => h j (by omega)]

end Sys2Proof.Machine
end

