-- ==== Sys2Proof/Laws/Varint.lean ====
section
/-! SUPPORT. The stream functions, one equation for each shape of their argument. -/

namespace Sys2Proof.Machine

/-- `bitlen` is the least exponent whose power of 2 is above the number (R15). -/
theorem bitlen_le_iff (p k : Nat) : bitlen p ≤ k ↔ p < 2 ^ k := by
  unfold bitlen
  split
  · subst p
    simp
  · rename_i h
    rw [← Nat.log2_lt h]
    omega

theorem lt_two_pow_bitlen (p : Nat) : p < 2 ^ bitlen p := (bitlen_le_iff p _).mp le_rfl

/-- The byte count of a nonzero number is one more than that of the number without its low byte (R95). -/
theorem byteCount_succ (p : Nat) (h : p ≠ 0) : (bitlen p + 7) / 8 = (bitlen (p / 256) + 7) / 8 + 1 := by
  have hp := lt_two_pow_bitlen p
  have hq := lt_two_pow_bitlen (p / 256)
  have up : bitlen p ≤ bitlen (p / 256) + 8 := by
    rw [bitlen_le_iff, pow_add]
    omega
  have pos : bitlen p ≠ 0 := by
    intro hb
    rw [hb] at hp
    omega
  by_cases h8 : bitlen p ≤ 8
  · have hlt := (bitlen_le_iff p 8).mp h8
    have hz : p / 256 = 0 := by omega
    have h0 : bitlen 0 = 0 := rfl
    rw [hz, h0]
    omega
  · have down : bitlen (p / 256) ≤ bitlen p - 8 := by
      rw [bitlen_le_iff]
      have hs : 2 ^ bitlen p = 2 ^ 8 * 2 ^ (bitlen p - 8) := by
        rw [← pow_add]
        congr 1
        omega
      rw [hs] at hp
      exact Nat.div_lt_of_lt_mul hp
    omega

@[simp] theorem unpack_zero : unpack 0 = [] := rfl

/-- `unpack` of a nonzero number: its low byte first (R95). -/
theorem unpack_of_ne_zero (p : Nat) (h : p ≠ 0) : unpack p = BitVec.ofNat 8 p :: unpack (p / 256) := by
  unfold unpack
  rw [byteCount_succ p h, List.range_succ_eq_map, List.map_cons, List.map_map]
  congr 1
  apply List.map_congr_left
  intro i _
  show BitVec.ofNat 8 (p >>> (8 * (i + 1))) = BitVec.ofNat 8 ((p / 256) >>> (8 * i))
  rw [Nat.shiftRight_eq_div_pow, Nat.shiftRight_eq_div_pow, Nat.div_div_eq_div_mul,
    show 256 = 2 ^ 8 from rfl, ← pow_add, Nat.mul_add, Nat.add_comm]

@[simp] theorem unpack_length (p : Nat) : (unpack p).length = (bitlen p + 7) / 8 := by
  simp [unpack]

@[simp] theorem varintGroups_zero (fuel : Nat) : varintGroups fuel 0 = [] := by
  cases fuel <;> rfl

/-- The groups of a nonzero number: the low 7 bits first, with the continuation bit while more remain (R110). -/
theorem varintGroups_of_ne_zero (fuel n : Nat) (h : n ≠ 0) :
    varintGroups (fuel + 1) n =
      BitVec.ofNat 8 (n % 2 ^ 7 + if n / 2 ^ 7 = 0 then 0 else 0x80) :: varintGroups fuel (n / 2 ^ 7) := by
  show (if n = 0 then [] else _) = _
  rw [if_neg h]

/-- A stream byte is its group and its continuation bit (R92). -/
theorem byte_eq_group_continuation :
    ∀ b : Byte, b.toNat = group b + 2 ^ 7 * (continuation b).toNat := by
  decide

theorem streamValue_lt (st : List Byte) : streamValue st < 2 ^ (7 * st.length) := by
  induction st with
  | nil => simp [streamValue]
  | cons b s ih =>
    have hg : group b < 2 ^ 7 := (b.extractLsb' 0 7).isLt
    simp only [streamValue, List.length_cons, Nat.mul_add, pow_add]
    omega

theorem pack_lt (st : List Byte) : pack st < 2 ^ (8 * st.length) := by
  induction st with
  | nil => simp [pack]
  | cons b s ih =>
    have hb := b.isLt
    simp only [pack, List.length_cons, Nat.mul_add, pow_add]
    omega

end Sys2Proof.Machine
end

