-- ==== Sys2Proof/Laws/Window.lean ====
section
/-! SUPPORT. The register window's map and checks as plain propositions. -/

namespace Sys2Proof.Machine

/-! ## The map -/

theorem regAt_offset (r : Reg) : regAt r.offset = some r := by
  cases r with
  | ent k r => fin_cases k <;> cases r <;> rfl
  | _ => rfl

/-- Every aligned word of the window above `IN_BUF` is a register or reserved (R21). -/
theorem regAt_or_reserved : ∀ j < 128, (regAt (0x200 + 4 * j)).isNone = reservedOffset (0x200 + 4 * j) := by
  decide

/-- No register lies in `IN_BUF` (R21). -/
theorem regAt_inBuffer : ∀ j < 128, regAt (4 * j) = none := by
  decide

/-- The read-only registers are `STATUS` and all from 0x220 on (R21). -/
theorem regAt_readOnly : ∀ j < 48, (regAt (0x200 + 4 * j)).any Reg.readOnly =
    (!reservedOffset (0x200 + 4 * j) && (j == 2 || decide (8 ≤ j))) := by
  decide

/-! ## The checks of R66 -/

theorem inBuffer_iff (off : Nat) : inBuffer off = true ↔ off < 512 := by
  unfold inBuffer
  exact decide_eq_true_iff

theorem misaligned_iff (a : BusAccess) : misaligned a = true ↔ a.offset % (a.width / 8) ≠ 0 := by
  unfold misaligned BusAccess.bytes
  exact bne_iff_ne

theorem widthRefused_iff (a : BusAccess) : widthRefused a = true ↔
    (a.offset < 512 ∧ a.width ≠ 8 ∧ a.width ≠ 16 ∧ a.width ≠ 32) ∨ (512 ≤ a.offset ∧ (a.width ≠ 32 ∨ 1024 ≤ a.offset)) := by
  unfold widthRefused
  by_cases h : a.offset < 512
  · rw [if_pos ((inBuffer_iff _).mpr h)]
    simp [h]
    omega
  · rw [if_neg (fun h' => h ((inBuffer_iff _).mp h'))]
    simp [h]
    omega

theorem reservedOffset_iff (off : Nat) : reservedOffset off = true ↔
    (0x20C ≤ off ∧ off ≤ 0x20F) ∨ (0x234 ≤ off ∧ off ≤ 0x23F) ∨ (0x2C0 ≤ off ∧ off ≤ 0x3FF) := by
  simp only [reservedOffset, Bool.or_eq_true, Bool.and_eq_true, decide_eq_true_eq, or_assoc]

theorem crossesBuffer_iff (a : BusAccess) : crossesBuffer a = true ↔
    a.offset < 512 ∧ 512 < a.offset + a.width / 8 := by
  unfold crossesBuffer BusAccess.bytes
  rw [Bool.and_eq_true, inBuffer_iff]
  exact and_congr_right fun _ => decide_eq_true_iff

@[simp] theorem readOnlyWrite_read (off w : Nat) :
    readOnlyWrite { kind := .read, offset := off, width := w } = false := rfl

/-- Where a write is refused as one to a read-only register, inside the window's unreserved part. -/
theorem readOnlyWrite_write_iff (v : Word) (off w : Nat) :
    readOnlyWrite { kind := .write v, offset := off, width := w } = true ↔
      0x200 ≤ off ∧ off < 0x2C0 ∧ reservedOffset off = false ∧ (off / 4 = 0x82 ∨ 0x220 ≤ off) := by
  show (regAt (off - off % 4)).any Reg.readOnly = true ↔ _
  have hw : off - off % 4 = 4 * (off / 4) := by omega
  rw [hw]
  by_cases h0 : off < 0x200
  · rw [regAt_inBuffer _ (by omega)]
    simp
    omega
  · by_cases h1 : off < 0x2C0
    · have h := regAt_readOnly (off / 4 - 128) (by omega)
      have hr : reservedOffset (0x200 + 4 * (off / 4 - 128)) = reservedOffset off := by
        rw [Bool.eq_iff_iff, reservedOffset_iff, reservedOffset_iff]
        omega
      have ho : 0x200 + 4 * (off / 4 - 128) = 4 * (off / 4) := by omega
      rw [hr] at h
      rw [← ho, h]
      simp only [Bool.and_eq_true, Bool.or_eq_true, Bool.not_eq_true', beq_iff_eq, decide_eq_true_eq]
      constructor
      · rintro ⟨h2, h3⟩
        exact ⟨by omega, h1, h2, by omega⟩
      · rintro ⟨-, -, h2, h3⟩
        exact ⟨h2, by omega⟩
    · have hn : regAt (4 * (off / 4)) = none := by
        unfold regAt
        split <;> first | omega | skip
        rw [if_neg (by omega), dif_neg (by omega)]
      rw [hn]
      simp
      omega

/-- Every access outside the window is refused (R60, R64, R66). -/
theorem refusedAccess_outside (a : BusAccess) (h : 0x400 ≤ a.offset) : refusedAccess a = true := by
  simp only [refusedAccess, Bool.or_eq_true]
  exact .inl (.inl (.inl (.inr ((widthRefused_iff a).mpr (.inr ⟨by omega, .inr h⟩)))))

theorem refusedAccess_iff (a : BusAccess) : refusedAccess a = true ↔
    misaligned a = true ∨ widthRefused a = true ∨ reservedOffset a.offset = true ∨ readOnlyWrite a = true ∨
      crossesBuffer a = true := by
  simp only [refusedAccess, Bool.or_eq_true, or_assoc]

end Sys2Proof.Machine
end

