-- ==== Sys2Proof/Laws/Ops.lean ====
section
/-! SUPPORT. What each shared operation and each step can do, said once: proofs cite these and unfold no operation. -/

namespace Sys2Proof.Machine

/-! ## How a command ends -/

theorem complete_eq (op : BitVec 4) (s : State) :
    complete op s = .next (s.setStatus op .none false false) := rfl

theorem raiseError_eq (op : BitVec 4) (e : ErrCode) (s : State) :
    raiseError op e s = .next (s.setStatus op e false false) := rfl

/-! ## The commands: each has a next state, in one of these cases -/

theorem exec_varintEncode (s : State) :
    exec .varintEncode s = .next
      ((s.setResults ((BitVec.ofNat 80 (pack (varintEncode s.opa))).extractLsb' 0 64)
        (((BitVec.ofNat 80 (pack (varintEncode s.opa))).extractLsb' 64 16).setWidth 32)
        (BitVec.ofNat 32 (varintEncode s.opa).length)).setStatus 0x1#4 .none false false) := rfl

theorem exec_varintDecode_range (s : State) (h : s.opbUpper ≠ 0#16) :
    exec .varintDecode s = .next (s.setStatus 0x2#4 .range false false) := by
  simp [exec, execVarintDecode, h, raiseError_eq]

theorem exec_varintDecode_done (s : State) (h : s.opbUpper = 0#16) :
    exec .varintDecode s = .next
      ((s.setResults (BitVec.ofNat 64 (varintDecode s.packedOperand.toNat).value) 0
        (BitVec.ofNat 32 (varintDecode s.packedOperand.toNat).len)).setStatus 0x2#4
        (varintErr (!(varintDecode s.packedOperand.toNat).wf)
          (decide (2 ^ 64 ≤ (varintDecode s.packedOperand.toNat).value)))
        (!(varintDecode s.packedOperand.toNat).wf)
        (decide (2 ^ 64 ≤ (varintDecode s.packedOperand.toNat).value))) := by
  simp only [exec, execVarintDecode, h, ne_eq, not_true_eq_false, if_false]

theorem exec_chsToLba_range (s : State) (h : s.opaHi ≠ 0#32) :
    exec .chsToLba s = .next (s.setStatus 0x3#4 .range false false) := by
  simp [exec, execChsToLba, h, raiseError_eq]

theorem exec_chsToLba_done (s : State) (h : s.opaHi = 0#32) :
    exec .chsToLba s = .next
      ((s.setResults (BitVec.ofInt 64 (chsToLba s.opaLo.toNat s.opb.toNat s.opc.toNat)) 0 0).setStatus 0x3#4
        .none false false) := by
  simp only [exec, execChsToLba, h, ne_eq, not_true_eq_false, if_false, complete_eq]

theorem exec_lbaToChs_range (s : State) (h : s.opaHi ≠ 0#32) :
    exec .lbaToChs s = .next (s.setStatus 0x4#4 .range false false) := by
  simp [exec, execLbaToChs, h, raiseError_eq]

theorem exec_lbaToChs_done (s : State) (h : s.opaHi = 0#32) :
    exec .lbaToChs s = .next
      ((s.setResults (BitVec.ofNat 64 (lbaToChs s.opaLo.toNat).cylinder)
        (BitVec.ofNat 32 (lbaToChs s.opaLo.toNat).head)
        (BitVec.ofNat 32 (lbaToChs s.opaLo.toNat).sector)).setStatus 0x4#4 .none false false) := by
  simp only [exec, execLbaToChs, h, ne_eq, not_true_eq_false, if_false, complete_eq]

theorem exec_entryDecode_length (s : State) (h : s.inLen ≠ 16#32) :
    exec .entryDecode s = .next (s.setStatus 0x5#4 .length false false) := by
  simp [exec, execEntryDecode, Config.entryBytes, h, raiseError_eq]

theorem exec_entryDecode_done (s : State) (h : s.inLen = 16#32) :
    exec .entryDecode s = .next ((s.writeEnt 0 (s.entryAt 0)).setStatus 0x5#4 .none false false) := by
  simp [exec, execEntryDecode, Config.entryBytes, h, complete_eq]

theorem exec_mbrDecode_length (s : State) (h : s.inLen ≠ 512#32) :
    exec .mbrDecode s = .next (s.setStatus 0x6#4 .length false false) := by
  simp [exec, execMbrDecode, Config.mbrBytes, h, raiseError_eq]

/-- The state MBR_DECODE leaves: each block holds the record of its own slot, read from the state before. -/
theorem exec_mbrDecode_done (s : State) (h : s.inLen = 512#32) :
    exec .mbrDecode s = .next
      (State.setStatus
        { s with
          sig := s.diskSignature
          ent :=
            { e0 := entryBlock (s.entryAt (slotOffset 0))
              e1 := entryBlock (s.entryAt (slotOffset 1))
              e2 := entryBlock (s.entryAt (slotOffset 2))
              e3 := entryBlock (s.entryAt (slotOffset 3)) } }
        0x6#4 .none false false) := by
  have hl : ¬s.inLen ≠ BitVec.ofNat 32 Config.mbrBytes := not_not.mpr h
  unfold exec execMbrDecode
  rw [if_neg hl]
  rfl

/-! ## A `CMD` write -/

theorem runCommand_ok {w : Word} {i : Instr} (h : decode w = .ok i) (s : State) : runCommand w s = exec i s := by
  simp [runCommand, h]

theorem runCommand_error {w : Word} {e : DecodeError} (h : decode w = .error e) (s : State) :
    runCommand w s = .next (s.setStatus (opField w) .illegalCommand false false) := by
  simp [runCommand, h, raiseError_eq]

/-- Every `CMD` write has a next state, with the buffer, the inputs and the mark as they were. -/
theorem runCommand_next (w : Word) (s : State) : ∃ t, runCommand w s = .next t ∧ t.inBuf = s.inBuf ∧
    t.inputs = s.inputs ∧ t.hostFault = s.hostFault := by
  cases hd : decode w with
  | error e => exact ⟨_, runCommand_error hd s, rfl, rfl, rfl⟩
  | ok i =>
    rw [runCommand_ok hd]
    cases i with
    | varintEncode => exact ⟨_, exec_varintEncode s, rfl, rfl, rfl⟩
    | varintDecode =>
      by_cases h : s.opbUpper = 0#16
      · exact ⟨_, exec_varintDecode_done s h, rfl, rfl, rfl⟩
      · exact ⟨_, exec_varintDecode_range s h, rfl, rfl, rfl⟩
    | chsToLba =>
      by_cases h : s.opaHi = 0#32
      · exact ⟨_, exec_chsToLba_done s h, rfl, rfl, rfl⟩
      · exact ⟨_, exec_chsToLba_range s h, rfl, rfl, rfl⟩
    | lbaToChs =>
      by_cases h : s.opaHi = 0#32
      · exact ⟨_, exec_lbaToChs_done s h, rfl, rfl, rfl⟩
      · exact ⟨_, exec_lbaToChs_range s h, rfl, rfl, rfl⟩
    | entryDecode =>
      by_cases h : s.inLen = 16#32
      · exact ⟨_, exec_entryDecode_done s h, rfl, rfl, rfl⟩
      · exact ⟨_, exec_entryDecode_length s h, rfl, rfl, rfl⟩
    | mbrDecode =>
      by_cases h : s.inLen = 512#32
      · exact ⟨_, exec_mbrDecode_done s h, rfl, rfl, rfl⟩
      · exact ⟨_, exec_mbrDecode_length s h, rfl, rfl, rfl⟩

/-! ## One step -/

/-- Everything a step can do: nothing (no input), a reset, a refused access, an access to the buffer, or an access to a
register. -/
theorem step_cases (s : State) :
    (s.inputs = [] ∧ step s = .next s) ∨
    (∃ rest, s.inputs = .reset :: rest ∧ step s = .next { s with inputs := rest }.platformReset) ∨
    (∃ a rest, s.inputs = .access a :: rest ∧
      ((refusedAccess a = true ∧ step s = .next ({ s with inputs := rest }.refuseAccess a.kind)) ∨
       (a.offset < 0x200 ∧ refusedAccess a = false ∧ step s = accessBuffer a { s with inputs := rest }) ∨
       (0x200 ≤ a.offset ∧ a.offset < 0x400 ∧ refusedAccess a = false ∧
          ∃ r, regAt a.offset = some r ∧ step s = accessReg r a.kind { s with inputs := rest }))) := by
  unfold step
  cases hs : s.inputs with
  | nil => exact .inl ⟨rfl, rfl⟩
  | cons x rest =>
    right
    cases x with
    | reset => exact .inl ⟨rest, rfl, rfl⟩
    | access a =>
      refine .inr ⟨a, rest, rfl, ?_⟩
      simp only [takeInput, performAccess, inBuffer, Config.mbrBytes]
      cases hr : refusedAccess a
      · have h0 : a.offset < 0x400 := by
          by_contra h
          rw [refusedAccess_outside a (by omega)] at hr
          exact absurd hr (by decide)
        by_cases h1 : a.offset < 0x200
        · exact .inr (.inl ⟨h1, rfl, by simp [h1]⟩)
        · refine .inr (.inr ⟨by omega, h0, rfl, ?_⟩)
          have hn := fun h => Bool.eq_false_iff.mp hr ((refusedAccess_iff a).mpr h)
          have hw : a.width = 32 := by
            by_contra h
            exact hn (.inr (.inl ((widthRefused_iff a).mpr (.inr ⟨by omega, .inl h⟩))))
          have hm : a.offset % 4 = 0 := by
            by_contra h
            exact hn (.inl ((misaligned_iff a).mpr (by simpa [hw] using h)))
          have hres : reservedOffset a.offset = false := Bool.eq_false_iff.mpr fun h => hn (.inr (.inr (.inl h)))
          have hreg := regAt_or_reserved ((a.offset - 0x200) / 4) (by omega)
          have hoff : 0x200 + 4 * ((a.offset - 0x200) / 4) = a.offset := by omega
          rw [hoff, hres] at hreg
          cases hq : regAt a.offset with
          | none => simp [hq] at hreg
          | some r => exact ⟨r, rfl, by simp [h1]⟩
      · exact .inl ⟨rfl, rfl⟩

/-- What `n + 1` steps do when the first has a next state. -/
theorem run_succ {s t : State} (n : Nat) (h : step s = .next t) : run (n + 1) s = run n t := by
  simp only [run, h]

end Sys2Proof.Machine
end

