-- ==== Sys2Proof/Laws/PerInstr.lean ====
section
/-! SUPPORT. Per-command facts about the command as syntax. -/

namespace Sys2Proof.Laws.Encoding

/-- The decoder reads a command's own word back as that command (R81, R82). -/
def Statement (i : Instr) : Prop :=
  i.wellFormed = true ∧ decodeTableWord 32 (encode i).toNat = some i

theorem varintEncode : Statement .varintEncode := ⟨rfl, rfl⟩
theorem varintDecode : Statement .varintDecode := ⟨rfl, rfl⟩
theorem chsToLba : Statement .chsToLba := ⟨rfl, rfl⟩
theorem lbaToChs : Statement .lbaToChs := ⟨rfl, rfl⟩
theorem entryDecode : Statement .entryDecode := ⟨rfl, rfl⟩
theorem mbrDecode : Statement .mbrDecode := ⟨rfl, rfl⟩

end Sys2Proof.Laws.Encoding
end

