-- ==== Sys2Proof/Tests/Slice0.lean ====
section
/-! SUPPORT. Tests whose expected results are the spec's own vectors (spec/95_test_vectors.md), the smoke tests of the
well-formedness checks, and one witness for each statement that has hypotheses. -/

namespace Sys2Proof.Tests

open Sys2Proof.Machine

/-! ## Helpers -/

/-- What one outcome's next state shows. -/
def after {α : Type} (o : Host.Outcome State Fault Refusal) (f : State → α) : Option α :=
  match o with
  | .next t => some (f t)
  | .fault _ => none
  | .refused _ => none

/-- The result registers and `STATUS`. -/
def res (t : State) : Word × Word × Word × Word × Word := (t.resaLo, t.resaHi, t.resb, t.resc, t.status)

/-- The reset state with operands. -/
def ops (opaLo opaHi opb opc : Word) : State :=
  { State.reset with opaLo := opaLo, opaHi := opaHi, opb := opb, opc := opc }

/-- The reset state with a length and bytes from an offset on. -/
def buf (len : Word) (a : Nat) (bytes : List Byte) : State :=
  { State.reset with inLen := len, inBuf := (List.range bytes.length).zipWith (fun j b => (a + j, b)) bytes }

/-- A state whose next input is an access. -/
def acc (s : State) (k : AccessKind) (off w : Nat) : State :=
  { s with inputs := [.access { kind := k, offset := off, width := w }] }

/-- The reset state with `IN_BUF` all zero. -/
def zeroSector (len : Word) : State :=
  { State.reset with inLen := len, inBuf := (List.range 512).map fun a => (a, 0#8) }

theorem read_zeros (l : List Nat) (a : Nat) (h : a ∈ l) : Memory.read (l.map fun a => (a, 0#8)) a = some 0#8 := by
  induction l with
  | nil => cases h
  | cons b l ih =>
    simp only [List.map_cons, Memory.read]
    split
    · rfl
    · exact ih ((List.mem_cons.mp h).resolve_left ‹_›)

theorem zeroSector_byte (len : Word) (a : Nat) (h : a < 512) : (zeroSector len).bufByte a = 0#8 := by
  have hr := read_zeros (List.range 512) a (List.mem_range.mpr h)
  simp only [State.bufByte, zeroSector, hr]

/-! ## Well-formedness: each check refuses an ill-formed term (R60, R64, R97) -/

theorem test_wf_width : BusAccess.widthWellFormed { kind := .read, offset := 0, width := 64 } = false := by decide
theorem test_wf_offset : BusAccess.offsetWellFormed { kind := .read, offset := 0x400, width := 8 } = false := by decide
theorem test_wf_data :
    BusAccess.dataWellFormed { kind := .write 0x100, offset := 0, width := 8 } = false := by decide
theorem test_wf_good : Input.wellFormed (Script.wr16 0x1FE 0xAA55) = true := by decide

/-! ## Decoding: the words of R82 bit by bit, and the illegal words of table C1 -/

theorem test_decode_varintEncode :
    decode 0b00000000000000000000000000000001#32 = .ok .varintEncode := by decide
theorem test_decode_varintDecode :
    decode 0b00000000000000000000000000000010#32 = .ok .varintDecode := by decide
theorem test_decode_chsToLba :
    decode 0b00000000000000000000000000000011#32 = .ok .chsToLba := by decide
theorem test_decode_lbaToChs :
    decode 0b00000000000000000000000000000100#32 = .ok .lbaToChs := by decide
theorem test_decode_entryDecode :
    decode 0b00000000000000000000000000000101#32 = .ok .entryDecode := by decide
theorem test_decode_mbrDecode :
    decode 0b00000000000000000000000000000110#32 = .ok .mbrDecode := by decide
theorem test_illegal_word_status :
    after (step (State.reset.withFetchWord 32 0x80000006)) (fun t => (t.cmd, t.status))
      = some (0x80000006, 0x6020) := by decide
theorem test_table_word : decodeTableWord 32 6 = some .mbrDecode := by decide

/-! ## The commands (tables V1, V2, G1, G2, S2) -/

theorem test_varintEncode_300 :
    after (exec .varintEncode (ops 300 0 0 0)) res = some (0x2AC, 0, 0, 2, 0x1001) := by decide
theorem test_varintEncode_max :
    after (exec .varintEncode (ops 0xFFFFFFFF 0xFFFFFFFF 0 0)) res
      = some (0xFFFFFFFF, 0xFFFFFFFF, 0x1FF, 10, 0x1001) := by decide
theorem test_varintDecode_malformed_and_overflow :
    after (exec .varintDecode (ops 0xFFFFFFFF 0xFFFFFFFF 0x82FF 0)) res
      = some (0xFFFFFFFF, 0x7FFFFFFF, 0, 10, 0x2340) := by decide
theorem test_varintDecode_inner_terminal :
    after (exec .varintDecode (ops 0x017F 0 0 0)) res = some (255, 0, 0, 2, 0x2140) := by decide
theorem test_chsToLba_minus_one :
    after (exec .chsToLba (ops 0 0 0 0)) res = some (0xFFFFFFFF, 0xFFFFFFFF, 0, 0, 0x3001) := by decide
theorem test_chsToLba_max :
    after (exec .chsToLba (ops 0xFFFFFFFF 0 0xFFFFFFFF 0xFFFFFFFF)) res
      = some (0xFFFFFBCF, 0x42F, 0, 0, 0x3001) := by decide
theorem test_lbaToChs_max :
    after (exec .lbaToChs (ops 0xFFFFFFFF 0 7 7)) res = some (4260880, 0, 4, 4, 0x4001) := by decide
theorem test_lbaToChs_1007 :
    after (exec .lbaToChs (ops 1007 0 0 0)) res = some (0, 0, 15, 63, 0x4001) := by decide

/-- Row 3 of S2. -/
theorem test_entryDecode_row3 :
    after (exec .entryDecode
      (buf 16 0 [0x7F, 0x01, 0x01, 0x00, 0x99, 0x00, 0x02, 0x00, 0x3F, 0, 0, 0, 0x01, 0, 0, 0])) (fun t => t.ent.e0)
      = some { info := 0x0099017F, schs := 0x101, echs := 0x200, lba := 0x3F, count := 1, bytesLo := 0x200,
               bytesHi := 0, unit := 0 } := by decide

/-- The example of R160, but for `KNOWN`. -/
theorem test_entryDecode_example :
    after (exec .entryDecode
      (buf 16 0 [0x80, 0x20, 0x21, 0x00, 0x83, 0xFE, 0xFF, 0xFF, 0x00, 0x08, 0, 0, 0x00, 0xF8, 0xFF, 0x07]))
      (fun t => ({ t.ent.e0 with info := 0 }, t.status))
      = some ({ info := 0, schs := 0x2120, echs := 0x03FF3FFE, lba := 0x800, count := 0x07FFF800,
                bytesLo := 0xFFF00000, bytesHi := 0xF, unit := 3 }, 0x5001) := by decide

/-- `ENT_INFO` of E7, for either verdict of the mapping. -/
theorem test_infoWord_known : ∀ k : Bool,
    infoWord { decodeEntry (fun j => if j = 4 then 0x00#8 else 0xFF#8) with known := k }
      = if k then 0x00000EFF else 0x000006FF := by decide

/-- `SIG` of P3. -/
theorem test_mbrDecode_signature :
    after (exec .mbrDecode (buf 512 440 [0x78, 0x56, 0x34, 0x12])) (fun t => (t.sig, t.status))
      = some (0x12345678, 0x6001) := by decide

/-- Slot 3 of P3, at 478, lands in `ENT[2]`. -/
theorem test_mbrDecode_slot3 :
    after (exec .mbrDecode
      (buf 512 478 [0x7F, 0x01, 0x01, 0x00, 0x99, 0x00, 0x02, 0x00, 0x3F, 0, 0, 0, 0x01, 0, 0, 0]))
      (fun t => (t.ent.e2.info, t.ent.e2.schs, t.ent.e2.lba)) = some (0x0099017F, 0x101, 0x3F) := by decide

/-! ## Size units at the thresholds (table S1) -/

theorem test_sizeUnit :
    [0, 1, 2, 2047, 2048, 2097151, 2097152, 0x7FFFFFFF, 0x80000000].map (fun c => sizeUnit (sizeBytes c))
      = [.b, .b, .kib, .kib, .mib, .mib, .gib, .gib, .tib] := by decide

/-! ## Host accesses (table H1) -/

theorem test_host_word_write :
    after (step (acc State.reset (.write 0x12345678) 0x1B8 32)) (fun t => t.inBuf)
      = some [(440, 0x78), (441, 0x56), (442, 0x34), (443, 0x12)] := by decide
theorem test_host_half_read :
    after (step (acc (buf 0 510 [0x55, 0xAA]) .read 0x1FE 16)) (fun t => t.lastRead) = some (some 0xAA55) := by decide
theorem test_host_cmd_readback :
    after (step (acc { State.reset with cmd := 6 } .read 0x204 32)) (fun t => t.lastRead) = some (some 6) := by decide
theorem test_host_ent_read :
    after (step (acc { State.reset with ent := { State.reset.ent with e2 := { EntBlock.zero with lba := 7 } } }
      .read 0x28C 32)) (fun t => t.lastRead) = some (some 7) := by decide
theorem test_host_refused :
    [(AccessKind.write 0, 0x1B9, 32), (.write 0, 0x200, 8), (.write 0, 0x208, 32), (.read, 0x20C, 32),
      (.read, 0x2C0, 32)].map (fun x => after (step (acc State.reset x.1 x.2.1 x.2.2)) id)
      = List.replicate 5 (some { State.reset with hostFault := true }) := by decide
/-- An access at 0x400 is one to no offset of the window (R60), so refused. -/
theorem test_host_outside :
    after (step (acc State.reset .read 0x400 32)) id = some { State.reset with hostFault := true } := by decide
/-- A reset after a refused access: `IN_LEN` is 0 again and the mark stays (R66). -/
theorem test_reset_keeps_the_mark :
    after (step { State.reset with inLen := 16, hostFault := true, inputs := [.reset] })
      (fun t => (t.inLen, t.hostFault)) = some (0, true) := by decide

/-! ## Pseudo-instructions (R98) -/

theorem test_ldbuf : Script.ldbuf 5 [1, 2] = [Script.wr8 5 1, Script.wr8 6 2] := by decide
theorem test_zbuf : Script.zbuf.length = 128 ∧ Script.zbuf.getLast? = some (Script.wr32 0x1FC 0) := ⟨rfl, rfl⟩
theorem test_ldpacked :
    Script.ldpacked 0x01FF_FFFFFFFF_00000007
      = [Script.wr32 0x210 7, Script.wr32 0x214 0xFFFFFFFF, Script.wr32 0x218 0x1FF] := by decide

/-! ## Witnesses: the hypotheses of each statement can be met -/

theorem witness_DecodeReadsExactlyTheEncodings :
    Instr.wellFormed .mbrDecode = true ∧ decode 6#32 = .ok .mbrDecode := by decide

theorem witness_StepRunsTheDecodedCommand :
    (State.reset.withFetchWord 32 1).inputs =
      .access { kind := .write 1#32, offset := 0x204, width := 32 } :: [] ∧
    decode 1#32 = .ok .varintEncode := by decide

theorem witness_IllegalWordWritesStatusOnly :
    (∀ w ∈ [0x00, 0x10, 0x07, 0x0F, 0x11, 0xFFFFFFF6], ((acc State.reset (.write w) 0x204 32).inputs =
      .access { kind := .write w, offset := 0x204, width := 32 } :: []) ∧
      (w.toNat % 16 = 0 ∨ 7 ≤ w.toNat % 16 ∨ w.toNat / 16 ≠ 0)) := by
  simp [acc]

theorem witness_StreamIsDeterminedByItsValue :
    streamWellFormed [0xAC#8, 0x02#8] = true ∧ [0xAC#8, 0x02#8].getLast? ≠ some 0#8 ∧
      streamValue [0xAC#8, 0x02#8] = streamValue [0xAC#8, 0x02#8] := by decide

theorem witness_VarintEncodeStreamProperties :
    0 < 300 ∧ 300 < 2 ^ (7 * 2) ∧ streamValue [0xAC#8, 0x82#8, 0x00#8] = 300 ∧ 300 < 2 ^ 64 := by decide

theorem witness_VarintDecodeWritesTheValueOfTheStream : (ops 0x2AC 0 0xFFFF 0).opb.toNat < 2 ^ 16 := by decide

theorem witness_VarintDecodeRangeError : 2 ^ 16 ≤ (ops 0 0 0x00010000 0).opb.toNat := by decide

theorem witness_VarintDecodeCornerVerdicts :
    (ops 0x80 0 0 0).opb.toNat < 2 ^ 16 ∧ 0x80 = 0 * 2 ^ 64 + 0 * 2 ^ 32 + (ops 0x80 0 0 0).opaLo.toNat ∧
      0 < 0x80 ∧ 0x80 / 2 ^ (8 * ((bitlen 0x80 - 1) / 8)) % 256 ≥ 0x80 := by decide

theorem witness_VarintZero : State.reset.opaLo = 0 ∧ State.reset.opaHi = 0 ∧ State.reset.opb = 0 := by decide

theorem witness_VarintDecodeIsNotInjective : (ops 5 0 0 0).opb = 0 ∧ (ops 5 0 0 0).opaHi = 0 := by decide

theorem witness_ChsToLbaIsExact : (ops 0xFFFFFFFF 0 0xFFFFFFFF 0xFFFFFFFF).opaHi = 0 := by decide

theorem witness_LbaToChsIsTheGeometricTriple : (ops 0xFFFFFFFF 0 0 0).opaHi = 0 := by decide

theorem witness_GeometryRangeError : (ops 0 1 0 0).opaHi ≠ 0 := by decide

theorem witness_GeometryInverseLaws_first : (ops 0xFFFFFFFF 0 0 0).opaHi = 0 := by decide

theorem witness_GeometryInverseLaws_below :
    (ops 4260879 0 15 63).opaHi = 0 ∧ (ops 4260879 0 15 63).opb.toNat ≤ 15 ∧
      1 ≤ (ops 4260879 0 15 63).opc.toNat ∧ (ops 4260879 0 15 63).opc.toNat ≤ 63 ∧
      (ops 4260879 0 15 63).opaLo.toNat ≤ 4260879 := by decide

theorem witness_GeometryInverseLaws_last :
    (ops 4260880 0 4 4).opaHi = 0 ∧ (ops 4260880 0 4 4).opb.toNat ≤ 15 ∧
      1 ≤ (ops 4260880 0 4 4).opc.toNat ∧ (ops 4260880 0 4 4).opc.toNat ≤ 63 ∧
      (ops 4260880 0 4 4).opaLo.toNat = 4260880 ∧
      (ops 4260880 0 4 4).opb.toNat * 63 + (ops 4260880 0 4 4).opc.toNat - 1 ≤ 255 := by decide

theorem witness_StatusClassRanges :
    (0x00#8).toNat = 0 ∧ 0x01 ≤ (0x01#8).toNat ∧ (0x7F#8).toNat ≤ 0x7F ∧ 0x80 ≤ (0x80#8).toNat := by decide

/-- Both sides of the scaled size's last two clauses: 1 TiB, and one sector less. -/
theorem witness_ScaledSizeIsExact :
    sizeUnit (sizeBytes 0x80000000) = .tib ∧ sizeUnit (sizeBytes 0x7FFFFFFF) ≠ .tib := by decide

theorem witness_EntryDecodeFillsBlockZero : (buf 16 0 []).inLen = 16 := by decide

theorem witness_DecodersCheckTheLength :
    (∀ n ∈ [0, 15, 17, 512], (buf n 0 []).inLen ≠ 16) ∧ (∀ n ∈ [0, 16, 511, 513], (buf n 0 []).inLen ≠ 512) := by
  simp [buf]

theorem witness_MbrDecodeFillsSignatureAndSlots : (buf 512 0 []).inLen = 512 := by decide

theorem witness_MbrSlotsAgreeWithEntryDecode :
    (zeroSector 512).inLen = 512 ∧ (zeroSector 16).inLen = 16 ∧
      ∀ j < 16, (zeroSector 16).bufByte j = (zeroSector 512).bufByte (446 + 16 * (3 : Fin 4).val + j) := by
  refine ⟨rfl, rfl, fun j hj => ?_⟩
  rw [zeroSector_byte _ _ (by omega), zeroSector_byte _ _ (by show 446 + 16 * 3 + j < 512; omega)]

theorem witness_MbrDecodeIgnoresTheOtherBytes :
    ∀ a, (440 ≤ a ∧ a ≤ 443) ∨ (446 ≤ a ∧ a ≤ 509) →
      { State.reset with inBuf := [(439, 1#8), (444, 1#8), (445, 1#8), (510, 0x55#8)] }.bufByte a
        = State.reset.bufByte a := by
  intro a h
  have h1 : a ≠ 439 := by omega
  have h2 : a ≠ 444 := by omega
  have h3 : a ≠ 445 := by omega
  have h4 : a ≠ 510 := by omega
  simp [State.bufByte, Memory.read, h1, h2, h3, h4]

theorem witness_AllZeroSector : (zeroSector 512).inLen = 512 ∧ ∀ a < 512, (zeroSector 512).bufByte a = 0#8 :=
  ⟨rfl, zeroSector_byte 512⟩

theorem witness_EntryTypeIsNeverAnError :
    (buf 16 4 [0x99]).inLen = 16 ∧ (buf 16 4 [0x00]).inLen = 16 ∧ (buf 16 4 [0x99]).bufByte 4 = 0x99#8 ∧
      ∀ j < 16, j ≠ 4 → (buf 16 4 [0x00]).bufByte j = (buf 16 4 [0x99]).bufByte j := by
  refine ⟨rfl, rfl, rfl, fun j _ h => ?_⟩
  simp [State.bufByte, Memory.read, buf, h]

theorem witness_RecordedErrorCodes :
    ErrCode.range ∈ recordable .varintDecode ∧
      after (exec .varintDecode (ops 0 0 0x10000 0)) (fun t => statusErr t.status) = some ErrCode.range.code ∧
      decode 0#32 = .error (.unassignedOp 0#4) := by decide

theorem witness_EarlyErrorsWriteStatusOnly :
    after (runCommand 4 (ops 0 1 0 0)) (fun t => earlyError (statusErr t.status)) = some true := by decide

theorem witness_CommandsDependOnTheirInputsOnly :
    sameInputs State.reset { State.reset with status := 0x2140, resaLo := 9, hostFault := true, sig := 5 } ∧
      after (exec .chsToLba State.reset) (fun t => earlyError (statusErr t.status)) = some false :=
  ⟨⟨fun _ => rfl, rfl, rfl, rfl, rfl, rfl⟩, by decide⟩

theorem witness_CommandFrames :
    (∀ i ∈ [Instr.varintEncode, .varintDecode, .chsToLba, .lbaToChs],
      (after (exec i (ops 1 0 2 3)) fun _ => ()) = some ()) ∧
    ((after (exec .entryDecode (buf 16 0 [])) fun _ => ()) = some ()) ∧
    ((after (exec .mbrDecode (buf 512 0 [])) fun _ => ()) = some ()) := by decide

theorem witness_StaleLengthFailsTheNextMbrDecode : (buf 16 0 []).inLen = 16 := by decide

/-- The three widths, each at the last offset of `IN_BUF` it can stand at. -/
theorem witness_HostWriteToBuffer :
    ∀ x ∈ [(1, 511), (2, 510), (4, 508)], (x.1 = 1 ∨ x.1 = 2 ∨ x.1 = 4) ∧ x.2 % x.1 = 0 ∧ x.2 < 512 ∧
      (acc State.reset (.write 7) x.2 (8 * x.1)).inputs =
        .access { kind := .write 7, offset := x.2, width := 8 * x.1 } :: [] := by decide

theorem witness_HostReadOfBuffer :
    ∀ x ∈ [(8, 511), (16, 510), (32, 508)], x.2 < 512 ∧ x.2 % (x.1 / 8) = 0 ∧
      (acc State.reset .read x.2 x.1).inputs = .access { kind := .read, offset := x.2, width := x.1 } :: [] := by decide

theorem witness_HostReadAt440IsTheSignature :
    (acc (buf 512 0 []) .read 440 32).inLen = 512 ∧
      (acc (buf 512 0 []) .read 440 32).inputs = .access { kind := .read, offset := 440, width := 32 } :: [] := by decide

/-- Each register's offset holds a value the statement speaks of: the last one is `ENT[3].ENT_UNIT`. -/
theorem witness_HostReadOfRegisters :
    (∀ off ∈ [0x200, 0x204, 0x208, 0x210, 0x214, 0x218, 0x21C, 0x220, 0x224, 0x228, 0x22C, 0x230, 0x240, 0x2BC],
      (acc State.reset .read off 32).inputs = .access { kind := .read, offset := off, width := 32 } :: []) ∧
    0x2BC = 0x25C + 0x20 * (3 : Fin 4).val := by decide

theorem witness_HostWriteToRegisters :
    ∀ off ∈ [0x200, 0x210, 0x214, 0x218, 0x21C], (acc State.reset (.write 9) off 32).inputs =
      .access { kind := .write 9, offset := off, width := 32 } :: [] := by decide

/-- One access for each kind that R66 lists, in the statement's order, at the edges of their ranges. -/
theorem witness_RefusedAccessSetsTheMarkOnly :
    (0x1B9 % (32 / 8) ≠ 0) ∧ (0x000 < 0x200 ∧ 64 ≠ 8 ∧ 64 ≠ 16 ∧ 64 ≠ 32) ∧ (0x200 ≤ 0x200 ∧ 8 ≠ 32) ∧
      (0x20F / 4 * 4 = 0x20C) ∧ (0x234 ≤ 0x23F ∧ 0x23F < 0x240) ∧ (0x2C0 ≤ 0x3FF ∧ 0x3FF < 0x400) ∧
      (AccessKind.write 0 ≠ .read ∧ 0x208 / 4 * 4 = 0x208 ∧ 0x220 ≤ 0x220) ∧
      (0x1FE < 0x200 ∧ 0x200 < 0x1FE + 32 / 8) ∧
      (acc State.reset .read 0x3FF 8).inputs = .access { kind := .read, offset := 0x3FF, width := 8 } :: [] := by decide

theorem witness_OtherAccessesAreAllowed :
    (0x1FF < 0x200 ∧ (8 = 8 ∨ 8 = 16 ∨ 8 = 32) ∧ 0x1FF % (8 / 8) = 0) ∧
      (0x2BC % 4 = 0 ∧ 0x200 ≤ 0x2BC ∧ 0x2BC < 0x2C0 ∧ 0x2BC ≠ 0x20C ∧ ¬(0x234 ≤ 0x2BC ∧ 0x2BC < 0x240)) ∧
      (0x21C % 4 = 0 ∧ 0x21C ≠ 0x208 ∧ 0x21C < 0x220) ∧
      (acc State.reset .read 0x1FF 8).inputs = .access { kind := .read, offset := 0x1FF, width := 8 } :: [] := by decide

theorem witness_TheMarkIsNeverClearedByAnAccess :
    (acc { State.reset with hostFault := true } .read 0x208 32).hostFault = true ∧
      after (step (acc { State.reset with hostFault := true } .read 0x208 32)) (fun t => t.hostFault) = some true := by
  decide

theorem witness_NoRunIsSafeAfterARefusedAccess :
    ({ State.reset with hostFault := true, inputs := [.reset] } : State).hostFault = true ∧
      after (step { State.reset with hostFault := true, inputs := [.reset] }) (fun t => t.hostFault) = some true ∧
      (acc State.reset .read 0x20C 32).inputs = .access { kind := .read, offset := 0x20C, width := 32 } :: [] ∧
      refusedAccess { kind := .read, offset := 0x20C, width := 32 } = true := by decide

theorem witness_OutsideTheWindowIsRefused :
    (acc State.reset .read 0x400 32).inputs = .access { kind := .read, offset := 0x400, width := 32 } :: [] ∧
      0x400 ≤ 0x400 := by decide

theorem witness_IdleStepKeepsTheState : State.reset.inputs = [] := by decide

theorem witness_WindowStandsAtItsBase :
    windowOffset Config.windowBase (Config.windowBase + 1023) = some 1023 := by
  simp [windowOffset]

theorem witness_PlatformResetRestoresTheDevice :
    { State.reset with hostFault := true, inputs := [.reset] }.inputs = .reset :: [] := by decide

theorem witness_EqualBuffersAreEqualData :
    Memory.wf [(0, 1#8), (511, 2#8)] = true ∧ (∀ a, Memory.read [(0, 1#8), (511, 2#8)] a = Memory.read [(0, 1#8), (511, 2#8)] a) ∧
      (0 : Nat) < 512 ∧ 511 < 512 ∧ 0 ≠ 511 := by
  exact ⟨by decide, fun _ => rfl, by decide⟩

theorem witness_EveryStepKeepsTheInvariant :
    Inv { State.reset with inLen := 512 } ∧
      step { State.reset with inLen := 512 } = .next { State.reset with inLen := 512 } := by
  refine ⟨⟨rfl, .inl rfl, by decide, fun _ => ⟨rfl, rfl, rfl, rfl, rfl, rfl, ?_⟩, by decide, fun k => .inl ?_⟩, rfl⟩
  · intro k
    fin_cases k <;> rfl
  · fin_cases k <;> rfl

end Sys2Proof.Tests
end

section
/-! The frames of the six commands (O34): what each command can change, as one predicate on the states before and after
per form of result of spec/10_state.md R28, and the buffer bytes that every such frame keeps. -/

namespace Sys2Proof.Machine

/-! ## The three frames, by where a command's results stand -/

/-- At most `RESA`, `RESB`, `RESC` and `STATUS` changed: the frame of the codec and converter commands (R27, R28). -/
def ResultFrame (s t : State) : Prop :=
  t = { s with
    resaLo := t.resaLo, resaHi := t.resaHi, resb := t.resb, resc := t.resc, status := t.status }

/-- At most `ENT[0]` and `STATUS` changed: the frame of ENTRY_DECODE (R28, R161). -/
def EntryFrame (s t : State) : Prop :=
  t = { s with ent := { s.ent with e0 := t.ent.e0 }, status := t.status }

/-- At most `SIG`, `ENT` and `STATUS` changed: the frame of MBR_DECODE (R28, R30). -/
def MbrFrame (s t : State) : Prop :=
  t = { s with sig := t.sig, ent := t.ent, status := t.status }

/-! ## What the shared operations do to a frame

An early error writes `STATUS` alone (R205), which every frame allows; a completion adds the command's own results. -/

theorem ResultFrame.setStatus (s : State) (op : BitVec 4) (e : ErrCode) (m o : Bool) :
    ResultFrame s (s.setStatus op e m o) := rfl

theorem ResultFrame.setResults_setStatus (s : State) (r : BitVec 64) (b c : Word) (op : BitVec 4) (e : ErrCode)
    (m o : Bool) : ResultFrame s ((s.setResults r b c).setStatus op e m o) := rfl

theorem EntryFrame.setStatus (s : State) (op : BitVec 4) (e : ErrCode) (m o : Bool) :
    EntryFrame s (s.setStatus op e m o) := rfl

theorem EntryFrame.writeEnt_setStatus (s : State) (r : EntryRecord) (op : BitVec 4) (e : ErrCode) (m o : Bool) :
    EntryFrame s ((s.writeEnt 0 r).setStatus op e m o) := rfl

theorem MbrFrame.setStatus (s : State) (op : BitVec 4) (e : ErrCode) (m o : Bool) :
    MbrFrame s (s.setStatus op e m o) := rfl

theorem MbrFrame.sig_ent_setStatus (s : State) (v : Word) (f : EntFile) (op : BitVec 4) (e : ErrCode) (m o : Bool) :
    MbrFrame s (State.setStatus { s with sig := v, ent := f } op e m o) := rfl

/-! ## Every frame keeps the buffer bytes -/

theorem ResultFrame.bufByte {s t : State} (h : ResultFrame s t) (a : Nat) : t.bufByte a = s.bufByte a :=
  State.bufByte_congr (congrArg State.inBuf h) (congrArg State.drawEpoch h) a

theorem EntryFrame.bufByte {s t : State} (h : EntryFrame s t) (a : Nat) : t.bufByte a = s.bufByte a :=
  State.bufByte_congr (congrArg State.inBuf h) (congrArg State.drawEpoch h) a

theorem MbrFrame.bufByte {s t : State} (h : MbrFrame s t) (a : Nat) : t.bufByte a = s.bufByte a :=
  State.bufByte_congr (congrArg State.inBuf h) (congrArg State.drawEpoch h) a

/-! ## Each command keeps its frame -/

/-- What holds of the state a command is known to leave holds of any state it is said to leave. -/
theorem of_exec_next {i : Instr} {s t u : State} {P : State → Prop} (hu : exec i s = .next u) (hP : P u)
    (h : exec i s = .next t) : P t :=
  Host.Outcome.next.inj (hu.symm.trans h) ▸ hP

theorem exec_resultFrame {i : Instr} {s t : State}
    (hi : i = .varintEncode ∨ i = .varintDecode ∨ i = .chsToLba ∨ i = .lbaToChs) (h : exec i s = .next t) :
    ResultFrame s t := by
  obtain rfl | rfl | rfl | rfl := hi
  · exact of_exec_next (exec_varintEncode s) (.setResults_setStatus ..) h
  · by_cases hop : s.opbUpper = 0#16
    · exact of_exec_next (exec_varintDecode_done s hop) (.setResults_setStatus ..) h
    · exact of_exec_next (exec_varintDecode_range s hop) (.setStatus ..) h
  · by_cases hop : s.opaHi = 0#32
    · exact of_exec_next (exec_chsToLba_done s hop) (.setResults_setStatus ..) h
    · exact of_exec_next (exec_chsToLba_range s hop) (.setStatus ..) h
  · by_cases hop : s.opaHi = 0#32
    · exact of_exec_next (exec_lbaToChs_done s hop) (.setResults_setStatus ..) h
    · exact of_exec_next (exec_lbaToChs_range s hop) (.setStatus ..) h

theorem exec_entryFrame {s t : State} (h : exec .entryDecode s = .next t) : EntryFrame s t := by
  by_cases hlen : s.inLen = 16#32
  · exact of_exec_next (exec_entryDecode_done s hlen) (.writeEnt_setStatus ..) h
  · exact of_exec_next (exec_entryDecode_length s hlen) (.setStatus ..) h

theorem exec_mbrFrame {s t : State} (h : exec .mbrDecode s = .next t) : MbrFrame s t := by
  by_cases hlen : s.inLen = 512#32
  · exact of_exec_next (exec_mbrDecode_done s hlen) (.sig_ent_setStatus ..) h
  · exact of_exec_next (exec_mbrDecode_length s hlen) (.setStatus ..) h

/-- No command stores to `IN_BUF` (R13, R28). -/
theorem exec_bufByte {i : Instr} {s t : State} (h : exec i s = .next t) (a : Nat) : t.bufByte a = s.bufByte a := by
  cases i with
  | varintEncode => exact (exec_resultFrame (by simp) h).bufByte a
  | varintDecode => exact (exec_resultFrame (by simp) h).bufByte a
  | chsToLba => exact (exec_resultFrame (by simp) h).bufByte a
  | lbaToChs => exact (exec_resultFrame (by simp) h).bufByte a
  | entryDecode => exact (exec_entryFrame h).bufByte a
  | mbrDecode => exact (exec_mbrFrame h).bufByte a

/-- Settles O34: each command's frame by a case split on how the command ends (an early error or a completion), and the
buffer bytes from the frames. -/
theorem commandFrames : Obligations.CommandFrames :=
  ⟨fun _ _ _ => exec_resultFrame, fun _ _ => exec_entryFrame, fun _ _ => exec_mbrFrame, fun _ _ _ => exec_bufByte⟩

end Sys2Proof.Machine
end

section
/-! Host accesses to the registers (O3, O39, O40, O47): an aligned 32-bit access at a register's offset is refused only
where it writes a read-only register, so the step is the register's own access. -/

namespace Sys2Proof.Machine

/-- Every register is an aligned word of the window above `IN_BUF`, at no reserved offset (R21, R32). -/
theorem Reg.offset_unreserved (r : Reg) :
    0x200 ≤ r.offset ∧ r.offset < 0x2C0 ∧ r.offset % 4 = 0 ∧ reservedOffset r.offset = false := by
  cases r with
  | ent k r => fin_cases k <;> cases r <;> decide
  | _ => decide

/-- A write at a register's offset is one to a read-only register exactly where that register is one (R66). -/
theorem readOnlyWrite_register (r : Reg) (v : Word) (w : Nat) :
    readOnlyWrite { kind := .write v, offset := r.offset, width := w } = r.readOnly := by
  obtain ⟨-, -, haligned, -⟩ := r.offset_unreserved
  simp [readOnlyWrite, haligned, regAt_offset]

/-- A 32-bit access at a register's offset is allowed where it is no write to a read-only register (R64 to R66). -/
theorem refusedAccess_register (r : Reg) (k : AccessKind) (hk : k = .read ∨ r.readOnly = false) :
    refusedAccess { kind := k, offset := r.offset, width := 32 } = false := by
  obtain ⟨hlow, hhigh, haligned, hreserved⟩ := r.offset_unreserved
  have hwrite : readOnlyWrite { kind := k, offset := r.offset, width := 32 } = false := by
    cases k with
    | read => rfl
    | write v => simpa [readOnlyWrite_register] using hk
  rw [Bool.eq_false_iff, ne_eq, refusedAccess_iff, misaligned_iff, widthRefused_iff, crossesBuffer_iff, hreserved,
    hwrite]
  simp
  omega

/-- A step that takes an allowed 32-bit access at a register's offset is that register's access. -/
theorem step_register {s : State} {rest : List Input} {k : AccessKind} (r : Reg)
    (hs : s.inputs = .access { kind := k, offset := r.offset, width := 32 } :: rest)
    (hk : k = .read ∨ r.readOnly = false) : step s = accessReg r k { s with inputs := rest } := by
  have hbuffer : ¬r.offset < 512 := Nat.not_lt.mpr r.offset_unreserved.1
  simp [step, hs, takeInput, performAccess, refusedAccess_register r k hk, inBuffer_iff, hbuffer, regAt_offset]

/-- Settles O3: the word stored in `CMD` is run by the same register write. -/
theorem stepRunsTheDecodedCommand : Obligations.StepRunsTheDecodedCommand := by
  intro s rest w i hs hw
  exact (step_register .cmd hs (.inr rfl)).trans (runCommand_ok hw _)

/-- Settles O39: each line of the map names a register, and a read of a register is always allowed. -/
theorem hostReadOfRegisters : Obligations.HostReadOfRegisters := by
  intro s rest off v hs hmap
  have hreg (r : Reg) (h : off = r.offset ∧ v = s.readReg r) :
      step s = .next { s with inputs := rest, lastRead := some v } := by
    obtain ⟨rfl, rfl⟩ := h
    exact step_register r hs (.inl rfl)
  have hent (k : Fin 4) (r : EntReg) (h : off = 0x240 + r.offset + 0x20 * k.val ∧ v = (s.ent.get k).reg r) :
      step s = .next { s with inputs := rest, lastRead := some v } :=
    hreg (.ent k r) ⟨h.1.trans (Nat.add_right_comm ..), h.2⟩
  obtain h | h | h | h | h | h | h | h | h | h | h | h | ⟨k, h | h | h | h | h | h | h | h⟩ := hmap
  · exact hreg .inLen h
  · exact hreg .cmd h
  · exact hreg .status h
  · exact hreg .opaLo h
  · exact hreg .opaHi h
  · exact hreg .opb h
  · exact hreg .opc h
  · exact hreg .resaLo h
  · exact hreg .resaHi h
  · exact hreg .resb h
  · exact hreg .resc h
  · exact hreg .sig h
  · exact hent k .info h
  · exact hent k .schs h
  · exact hent k .echs h
  · exact hent k .lba h
  · exact hent k .count h
  · exact hent k .bytesLo h
  · exact hent k .bytesHi h
  · exact hent k .unit h

/-- Settles O40, register by register: none of the five is read-only. -/
theorem hostWriteToRegisters : Obligations.HostWriteToRegisters := by
  intro s rest off v hs
  refine ⟨?_, ?_, ?_, ?_, ?_⟩ <;> rintro rfl
  · exact step_register .inLen hs (.inr rfl)
  · exact step_register .opaLo hs (.inr rfl)
  · exact step_register .opaHi hs (.inr rfl)
  · exact step_register .opb hs (.inr rfl)
  · exact step_register .opc hs (.inr rfl)

/-- Settles O47: an empty input list is the idle branch of `step`. -/
theorem idleStepKeepsTheState : Obligations.IdleStepKeepsTheState := by
  intro s hs
  simp [step, hs]

end Sys2Proof.Machine
end

section
/-! How a command ends (O10, O17, O30, O32, O33): the registers a command writes, as data that the command's inputs
alone determine (spec/10_state.md R28, R35). `exec_ending` and `runCommand_ending` say it of the model once; what a
command leaves, from which inputs, and what it does when run again are read off them. -/

namespace Sys2Proof.Machine

/-! ## The early range errors -/

/-- Settles O10: the operand's numeric bound is the model's check of `OPB[31:16]`. -/
theorem varintDecodeRangeError : Obligations.VarintDecodeRangeError := by
  intro s hs
  have hupper : s.opbUpper ≠ 0#16 := fun h => Nat.not_lt.mpr hs (s.opbUpper_eq_zero_iff.mp h)
  exact exec_varintDecode_range s hupper

/-- Settles O17: the early error of either converter command, as the whole `STATUS` word. -/
theorem geometryRangeError : Obligations.GeometryRangeError :=
  fun s hs => ⟨exec_chsToLba_range s hs, exec_lbaToChs_range s hs⟩

/-! ## What a command writes -/

/-- The result registers a command writes (R28): none after an early error (R205), `RESA`, `RESB` and `RESC`, the block
`ENT[0]` of 16 bytes, or `SIG` and the four blocks of a sector's slots. -/
inductive Results where
  | none
  | registers (resa : BitVec 64) (resb resc : Word)
  | entry (e : Fin 16 → Byte)
  | sector (sig : Word) (e : Fin 4 → Fin 16 → Byte)

/-- Writes the results. -/
def Results.put : Results → State → State
  | .none, s => s
  | .registers resa resb resc, s => s.setResults resa resb resc
  | .entry e, s => s.writeEnt 0 (decodeEntry e)
  | .sector sig e, s =>
    { s with
      sig := sig
      ent :=
        { e0 := entryBlock (decodeEntry (e 0))
          e1 := entryBlock (decodeEntry (e 1))
          e2 := entryBlock (decodeEntry (e 2))
          e3 := entryBlock (decodeEntry (e 3)) } }

/-- The widths of `RESB` and `RESC` (R28, R111, R132). -/
def Results.Bounded : Results → Prop
  | .registers _ resb resc => resb.toNat < 2 ^ 16 ∧ resc.toNat ≤ 63
  | .none | .entry _ | .sector _ _ => True

/-- All a command writes: its results and the `STATUS` word. -/
structure Ending where
  results : Results
  status : Word

/-- The state a command that ends so leaves. -/
def Ending.apply (g : Ending) (s : State) : State := { g.results.put s with status := g.status }

theorem Ending.apply_inBuf (g : Ending) (s : State) : (g.apply s).inBuf = s.inBuf := by
  obtain ⟨results, status⟩ := g
  cases results <;> rfl

theorem Ending.apply_cmd (g : Ending) (s : State) : (g.apply s).cmd = s.cmd := by
  obtain ⟨results, status⟩ := g
  cases results <;> rfl

/-- Writing the same registers twice is writing them once. -/
theorem Ending.apply_apply (g : Ending) (s : State) : g.apply (g.apply s) = g.apply s := by
  obtain ⟨results, status⟩ := g
  cases results <;> rfl

/-- No command writes a register that a command reads (R28). -/
theorem Ending.sameInputs_apply (g : Ending) (s : State) : sameInputs s (g.apply s) := by
  obtain ⟨results, status⟩ := g
  cases results <;> exact ⟨fun _ => rfl, rfl, rfl, rfl, rfl, rfl⟩

theorem sameInputs_refl (s : State) : sameInputs s s := ⟨fun _ => rfl, rfl, rfl, rfl, rfl, rfl⟩

/-! ## The ways a command can end -/

/-- How command `i` can end: with an early error it can record, or with results of its own kind. -/
inductive EndsIn : Instr → Ending → Prop
  | early {i : Instr} {e : ErrCode} (hrec : e ∈ recordable i) (hearly : earlyError e.code = true) :
    EndsIn i ⟨.none, statusWord i.opcode e false false⟩
  | varintEncode {resa : BitVec 64} {resb resc : Word} (hb : resb.toNat < 2 ^ 16) (hc : resc.toNat ≤ 63) :
    EndsIn .varintEncode ⟨.registers resa resb resc, statusWord 0x1#4 .none false false⟩
  | varintDecode {resa : BitVec 64} {resc : Word} (malf ovf : Bool) (hc : resc.toNat ≤ 63) :
    EndsIn .varintDecode ⟨.registers resa 0 resc, statusWord 0x2#4 (varintErr malf ovf) malf ovf⟩
  | chsToLba {resa : BitVec 64} : EndsIn .chsToLba ⟨.registers resa 0 0, statusWord 0x3#4 .none false false⟩
  | lbaToChs {resa : BitVec 64} {resb resc : Word} (hb : resb.toNat < 2 ^ 16) (hc : resc.toNat ≤ 63) :
    EndsIn .lbaToChs ⟨.registers resa resb resc, statusWord 0x4#4 .none false false⟩
  | entryDecode {e : Fin 16 → Byte} : EndsIn .entryDecode ⟨.entry e, statusWord 0x5#4 .none false false⟩
  | mbrDecode {sig : Word} {e : Fin 4 → Fin 16 → Byte} :
    EndsIn .mbrDecode ⟨.sector sig e, statusWord 0x6#4 .none false false⟩

/-- What every `CMD` write of a word with this `OP` field leaves: a legal `STATUS` with that `OP`, and results in their
widths (R25, R28, R203). -/
structure Ending.Legal (op : BitVec 4) (g : Ending) : Prop where
  status : statusLegal g.status = true
  op : statusOp g.status = op
  bounded : g.results.Bounded

theorem statusLegal_varintDecode : ∀ malf ovf : Bool,
    statusLegal (statusWord 0x2#4 (varintErr malf ovf) malf ovf) = true ∧
      statusOp (statusWord 0x2#4 (varintErr malf ovf) malf ovf) = 0x2#4 := by
  decide

/-- An illegal word leaves a legal `STATUS` under any `OP` (R83, R202). -/
theorem statusLegal_illegalCommand : ∀ op : BitVec 4,
    statusLegal (statusWord op .illegalCommand false false) = true ∧
      statusOp (statusWord op .illegalCommand false false) = op := by
  decide

/-- A code that a command can record early leaves a legal `STATUS`, whose `ERR` shows it as early (R202, R205). -/
theorem statusLegal_early (i : Instr) : ∀ e ∈ recordable i, earlyError e.code = true →
    statusLegal (statusWord i.opcode e false false) = true ∧
      statusOp (statusWord i.opcode e false false) = i.opcode ∧
      earlyError (statusErr (statusWord i.opcode e false false)) = true := by
  cases i <;> decide

theorem Ending.legal_complete (i : Instr) {r : Results} (hr : r.Bounded) :
    Ending.Legal i.opcode ⟨r, statusWord i.opcode .none false false⟩ := by
  have hstatus : statusLegal (statusWord i.opcode .none false false) = true ∧
      statusOp (statusWord i.opcode .none false false) = i.opcode := by
    cases i <;> decide
  exact ⟨hstatus.1, hstatus.2, hr⟩

theorem EndsIn.legal {i : Instr} {g : Ending} (h : EndsIn i g) : g.Legal i.opcode := by
  cases h with
  | early hrec hearly =>
    obtain ⟨hlegal, hop, -⟩ := statusLegal_early i _ hrec hearly
    exact ⟨hlegal, hop, trivial⟩
  | varintEncode hb hc => exact Ending.legal_complete .varintEncode ⟨hb, hc⟩
  | varintDecode malf ovf hc =>
    obtain ⟨hlegal, hop⟩ := statusLegal_varintDecode malf ovf
    exact ⟨hlegal, hop, by decide, hc⟩
  | chsToLba => exact Ending.legal_complete .chsToLba ⟨by decide, by decide⟩
  | lbaToChs hb hc => exact Ending.legal_complete .lbaToChs ⟨hb, hc⟩
  | entryDecode => exact Ending.legal_complete .entryDecode trivial
  | mbrDecode => exact Ending.legal_complete .mbrDecode trivial

/-- A command that does not fail early writes all the registers that its results are in. -/
theorem EndsIn.sameResults {i : Instr} {g : Ending} (h : EndsIn i g) (s u : State)
    (hlate : earlyError (statusErr g.status) = false) : sameResults i (g.apply s) (g.apply u) := by
  cases h with
  | early hrec hearly =>
    obtain ⟨-, -, herr⟩ := statusLegal_early i _ hrec hearly
    exact absurd herr (Bool.eq_false_iff.mp hlate)
  | varintEncode => exact ⟨rfl, rfl, rfl, rfl⟩
  | varintDecode => exact ⟨rfl, rfl, rfl, rfl⟩
  | chsToLba => exact ⟨rfl, rfl, rfl, rfl⟩
  | lbaToChs => exact ⟨rfl, rfl, rfl, rfl⟩
  | entryDecode => rfl
  | mbrDecode => exact ⟨rfl, rfl⟩

/-! ## The inputs determine the ending -/

theorem varintGroups_length_le (fuel n : Nat) : (varintGroups fuel n).length ≤ fuel := by
  induction fuel generalizing n with
  | zero => rfl
  | succ fuel ih =>
    by_cases hn : n = 0
    · simp [varintGroups, hn]
    · rw [varintGroups_of_ne_zero fuel n hn, List.length_cons]
      exact Nat.succ_le_succ (ih _)

/-- A packed operand of 80 bits holds at most 10 bytes (R95, R114). -/
theorem varintDecode_len_le (p : BitVec 80) : (varintDecode p.toNat).len ≤ 10 := by
  have hbits : bitlen p.toNat ≤ 80 := (bitlen_le_iff _ _).mpr p.isLt
  simp only [varintDecode, unpack, List.length_map, List.length_range]
  omega

theorem toNat_ofNat_le {n k : Nat} (w : Nat) (h : n ≤ k) : (BitVec.ofNat w n).toNat ≤ k :=
  BitVec.toNat_ofNat n w ▸ (Nat.mod_le _ _).trans h

theorem entryAt_congr {s u : State} (h : ∀ a, u.bufByte a = s.bufByte a) (a : Nat) : u.entryAt a = s.entryAt a := by
  simp only [State.entryAt, h]

theorem diskSignature_congr {s u : State} (h : ∀ a, u.bufByte a = s.bufByte a) :
    u.diskSignature = s.diskSignature := by
  simp only [State.diskSignature, h]

/-- A command ends from `s` in one way, and in the same way from all states with the inputs of `s`, whatever else they
hold (R28, R35). -/
def EndsOnInputs (i : Instr) (s : State) : Prop :=
  ∃ g, EndsIn i g ∧ ∀ u, sameInputs s u → exec i u = .next (g.apply u)

theorem varintEncode_ends (s : State) : EndsOnInputs .varintEncode s := by
  refine ⟨_, .varintEncode
    (resa := (BitVec.ofNat 80 (pack (varintEncode s.opa))).extractLsb' 0 64)
    (resb := ((BitVec.ofNat 80 (pack (varintEncode s.opa))).extractLsb' 64 16).setWidth 32)
    (resc := BitVec.ofNat 32 (varintEncode s.opa).length) ?_ ?_, fun u ⟨_, _, hlo, hhi, _, _⟩ => ?_⟩
  · rw [BitVec.toNat_setWidth_of_le (by decide)]
    exact BitVec.isLt _
  · exact (toNat_ofNat_le 32 (varintGroups_length_le _ _)).trans (by decide)
  · have hopa : u.opa = s.opa := by simp only [State.opa, hlo, hhi]
    rw [exec_varintEncode, hopa]
    rfl

theorem varintDecode_ends (s : State) : EndsOnInputs .varintDecode s := by
  by_cases hs : s.opbUpper = 0#16
  · refine ⟨_, .varintDecode
      (resa := BitVec.ofNat 64 (varintDecode s.packedOperand.toNat).value)
      (resc := BitVec.ofNat 32 (varintDecode s.packedOperand.toNat).len)
      (!(varintDecode s.packedOperand.toNat).wf)
      (decide (2 ^ 64 ≤ (varintDecode s.packedOperand.toNat).value)) ?_, fun u ⟨_, _, hlo, hhi, hopb, _⟩ => ?_⟩
    · exact (toNat_ofNat_le 32 (varintDecode_len_le _)).trans (by decide)
    · have hpacked : u.packedOperand = s.packedOperand := by simp only [State.packedOperand, hlo, hhi, hopb]
      have hupper : u.opbUpper = 0#16 := by rwa [State.opbUpper, hopb]
      rw [exec_varintDecode_done u hupper, hpacked]
      rfl
  · refine ⟨_, .early (e := .range) (by decide) rfl, fun u ⟨_, _, _, _, hopb, _⟩ => ?_⟩
    have hupper : u.opbUpper ≠ 0#16 := by rwa [State.opbUpper, hopb]
    exact exec_varintDecode_range u hupper

theorem chsToLba_ends (s : State) : EndsOnInputs .chsToLba s := by
  by_cases hs : s.opaHi = 0#32
  · refine ⟨_, .chsToLba (resa := BitVec.ofInt 64 (chsToLba s.opaLo.toNat s.opb.toNat s.opc.toNat)),
      fun u ⟨_, _, hlo, hhi, hopb, hopc⟩ => ?_⟩
    rw [exec_chsToLba_done u (hhi.trans hs), hlo, hopb, hopc]
    rfl
  · exact ⟨_, .early (e := .range) (by decide) rfl,
      fun u ⟨_, _, _, hhi, _, _⟩ => exec_chsToLba_range u (hhi ▸ hs)⟩

theorem lbaToChs_ends (s : State) : EndsOnInputs .lbaToChs s := by
  by_cases hs : s.opaHi = 0#32
  · have hhead : (lbaToChs s.opaLo.toNat).head ≤ 15 := Nat.le_of_lt_succ (Nat.mod_lt _ (by decide))
    have hsector : (lbaToChs s.opaLo.toNat).sector ≤ 63 := Nat.mod_lt _ (by decide)
    refine ⟨_, .lbaToChs (resa := BitVec.ofNat 64 (lbaToChs s.opaLo.toNat).cylinder)
      ((toNat_ofNat_le 32 hhead).trans_lt (by decide)) (toNat_ofNat_le 32 hsector),
      fun u ⟨_, _, hlo, hhi, _, _⟩ => ?_⟩
    rw [exec_lbaToChs_done u (hhi.trans hs), hlo]
    rfl
  · exact ⟨_, .early (e := .range) (by decide) rfl,
      fun u ⟨_, _, _, hhi, _, _⟩ => exec_lbaToChs_range u (hhi ▸ hs)⟩

theorem entryDecode_ends (s : State) : EndsOnInputs .entryDecode s := by
  by_cases hs : s.inLen = 16#32
  · refine ⟨_, .entryDecode (e := fun j => s.bufByte (0 + j)), fun u ⟨hbyte, hlen, _⟩ => ?_⟩
    rw [exec_entryDecode_done u (hlen.trans hs), entryAt_congr hbyte]
    rfl
  · exact ⟨_, .early (e := .length) (by decide) rfl,
      fun u ⟨_, hlen, _⟩ => exec_entryDecode_length u (hlen ▸ hs)⟩

theorem mbrDecode_ends (s : State) : EndsOnInputs .mbrDecode s := by
  by_cases hs : s.inLen = 512#32
  · refine ⟨_, .mbrDecode (sig := s.diskSignature) (e := fun k j => s.bufByte (slotOffset k + j)),
      fun u ⟨hbyte, hlen, _⟩ => ?_⟩
    rw [exec_mbrDecode_done u (hlen.trans hs), diskSignature_congr hbyte, entryAt_congr hbyte,
      entryAt_congr hbyte, entryAt_congr hbyte, entryAt_congr hbyte]
    rfl
  · exact ⟨_, .early (e := .length) (by decide) rfl,
      fun u ⟨_, hlen, _⟩ => exec_mbrDecode_length u (hlen ▸ hs)⟩

theorem exec_ending (i : Instr) (s : State) : EndsOnInputs i s := by
  cases i with
  | varintEncode => exact varintEncode_ends s
  | varintDecode => exact varintDecode_ends s
  | chsToLba => exact chsToLba_ends s
  | lbaToChs => exact lbaToChs_ends s
  | entryDecode => exact entryDecode_ends s
  | mbrDecode => exact mbrDecode_ends s

/-- A word that decodes to a command has that command's opcode in its `OP` field (R81, R82). -/
theorem opField_of_decode {w : Word} {i : Instr} (h : decode w = .ok i) : opField w = i.opcode := by
  unfold decode at h
  split at h
  · cases h
  · split at h <;> cases h <;> exact BitVec.eq_of_toNat_eq ‹_›

/-- A `CMD` write, of a command word or of an illegal one (R83), ends in one way from all states with the same inputs,
and what it leaves is legal. -/
theorem runCommand_ending (w : Word) (s : State) :
    ∃ g : Ending, g.Legal (opField w) ∧ ∀ u, sameInputs s u → runCommand w u = .next (g.apply u) := by
  cases hw : decode w with
  | ok i =>
    obtain ⟨g, hends, hexec⟩ := exec_ending i s
    exact ⟨g, opField_of_decode hw ▸ hends.legal, fun u hu => (runCommand_ok hw u).trans (hexec u hu)⟩
  | error e =>
    obtain ⟨hlegal, hop⟩ := statusLegal_illegalCommand (opField w)
    exact ⟨⟨.none, statusWord (opField w) .illegalCommand false false⟩, ⟨hlegal, hop, trivial⟩,
      fun u _ => runCommand_error hw u⟩

/-! ## What follows for every command -/

/-- The reset value 0 is no word that a command leaves (R25, R231). -/
theorem ne_zero_of_statusLegal {w : Word} (h : statusLegal w = true) : w ≠ 0 := by
  rintro rfl
  exact absurd h (by decide)

/-- Settles O30: every way a `CMD` write can end leaves a legal word. -/
theorem everyCommandLeavesALegalStatus : Obligations.EveryCommandLeavesALegalStatus := by
  intro w s
  obtain ⟨g, hlegal, hrun⟩ := runCommand_ending w s
  exact ⟨g.apply s, hrun s (sameInputs_refl s), hlegal.status, hlegal.op, ne_zero_of_statusLegal hlegal.status⟩

/-- Settles O32: one ending, applied to both states. -/
theorem commandsDependOnTheirInputsOnly : Obligations.CommandsDependOnTheirInputsOnly := by
  intro i s u hsame
  obtain ⟨g, hends, hexec⟩ := exec_ending i s
  exact ⟨g.apply s, g.apply u, hexec s (sameInputs_refl s), hexec u hsame, rfl, hends.sameResults s u⟩

/-- Settles O33: the first run keeps the inputs, so the second ends alike and writes the same registers again. -/
theorem commandsAreIdempotent : Obligations.CommandsAreIdempotent := by
  intro w s
  obtain ⟨g, -, hrun⟩ := runCommand_ending w s
  refine ⟨g.apply s, hrun s (sameInputs_refl s), ?_⟩
  rw [hrun (g.apply s) (g.sameInputs_apply s), g.apply_apply]

end Sys2Proof.Machine
end

section
/-! The invariant (O52, O53): it holds after reset, and of the inputs a step can take only a buffer write, a `CMD` write
and a reset touch a field it speaks of. -/

namespace Sys2Proof.Machine

/-! ## A decoded entry block -/

/-- The reserved bits of a packed CHS register are 0 (R34). -/
theorem chsWordLegal_chsWord (t : ChsTriple) : chsWordLegal (chsWord t) = true := by
  have := t.sect.isLt
  have := t.cyl.isLt
  have := t.head.isLt
  rw [chsWordLegal, Bool.and_eq_true, beq_iff_eq, beq_iff_eq, ← BitVec.toNat_inj, ← BitVec.toNat_inj]
  simp only [BitVec.extractLsb'_toNat, chsWord_toNat, Nat.shiftRight_eq_div_pow, BitVec.toNat_ofNat]
  omega

/-- The fields of a packed `ENT_INFO` wider than a bit (R33). -/
theorem infoWord_fields (r : EntryRecord) :
    (infoWord r).extractLsb' 0 8 = r.status ∧ (infoWord r).extractLsb' 8 2 = r.sclass.code ∧
      (infoWord r).extractLsb' 12 4 = 0#4 ∧ (infoWord r).extractLsb' 16 8 = r.type ∧
      (infoWord r).extractLsb' 24 8 = 0#8 := by
  have := r.status.isLt
  have := r.sclass.code.isLt
  have := r.type.isLt
  have := r.known.toNat_le
  have := r.empty.toNat_le
  simp only [← BitVec.toNat_inj, BitVec.extractLsb'_toNat, infoWord_toNat, Nat.shiftRight_eq_div_pow,
    BitVec.toNat_ofNat]
  omega

/-- The flags of a packed `ENT_INFO` (R33). -/
theorem infoWord_flags (r : EntryRecord) :
    (infoWord r).getLsbD 10 = r.empty ∧ (infoWord r).getLsbD 11 = r.known := by
  simp only [infoWord, BitVec.getLsbD_append]
  simp

/-- The two size registers together hold the exact size: it is below 2^41 (R155). -/
theorem sizeBytes_halves (cnt : Word) :
    ((BitVec.ofNat 64 (sizeBytes cnt)).extractLsb' 32 32).toNat * 2 ^ 32 +
      ((BitVec.ofNat 64 (sizeBytes cnt)).extractLsb' 0 32).toNat = sizeBytes cnt := by
  have := cnt.isLt
  simp only [BitVec.extractLsb'_toNat, BitVec.toNat_ofNat, Nat.shiftRight_eq_div_pow, sizeBytes, Config.sectorBytes]
  omega

theorem SizeUnit.toNat_index (u : SizeUnit) : (BitVec.ofNat 32 u.index).toNat = u.index := by
  cases u <;> rfl

/-- A block that an entry is decoded into is a decoded one, whatever the 16 bytes (R32 to R34, R164). -/
theorem entBlockDecoded_entryBlock (e : Fin 16 → Byte) : entBlockDecoded (entryBlock (decodeEntry e)) = true := by
  obtain ⟨hstatus, hclass, hlow, htype, hhigh⟩ := infoWord_fields (decodeEntry e)
  obtain ⟨hempty, hknown⟩ := infoWord_flags (decodeEntry e)
  simp only [entBlockDecoded, entryBlock, Bool.and_eq_true, beq_iff_eq, hstatus, hclass, hlow, htype, hhigh, hempty,
    hknown, chsWordLegal_chsWord]
  simp only [decodeEntry, sizeBytes_halves, SizeUnit.toNat_index, and_self]

/-! ## What keeps the invariant -/

/-- Settles O52: every register the invariant speaks of is 0, and the empty buffer is canonical. -/
theorem resetMeetsTheInvariant : Obligations.ResetMeetsTheInvariant := by
  have hent (k : Fin 4) : State.reset.ent.get k = .zero := by fin_cases k <;> rfl
  exact ⟨State.reset_inBuf_wf, .inl rfl, by decide, fun _ => ⟨rfl, rfl, rfl, rfl, rfl, rfl, hent⟩, by decide,
    fun k => .inl (hent k)⟩

/-- The invariant speaks neither of `IN_LEN` and the operands nor of the mark and the model's own fields. -/
theorem Inv.of_unread {s : State} (h : Inv s) {inLen opaLo opaHi opb opc : Word} {hostFault : Bool}
    {inputs : List Input} {lastRead : Option Word} {drawEpoch : Nat} :
    Inv { s with inLen, opaLo, opaHi, opb, opc, hostFault, inputs, lastRead, drawEpoch } :=
  ⟨h.buffer, h.status, h.op, h.fresh, h.results, h.entries⟩

theorem platformReset_inv (s : State) : Inv s.platformReset := Inv.of_unread resetMeetsTheInvariant

theorem Inv.refuseAccess {s : State} (h : Inv s) (k : AccessKind) : Inv (s.refuseAccess k) := h.of_unread

/-- A write inside `IN_BUF` keeps the buffer canonical and touches no register (R69). -/
theorem Inv.memWrite {s : State} (h : Inv s) {a n : Nat} (v : Word) (han : a + n ≤ Config.mbrBytes) :
    Inv (s.memWrite a v n) := by
  have hbuffer := s.memWrite_wf a v n h.buffer han
  rw [s.memWrite_frame]
  exact ⟨hbuffer, h.status, h.op, h.fresh, h.results, h.entries⟩

/-- A legal ending leaves the result registers in their widths, from a state where they are. -/
theorem Results.put_bounded {r : Results} (hr : r.Bounded) {s : State}
    (hs : s.resb.toNat < 2 ^ 16 ∧ s.resc.toNat ≤ 63) :
    (r.put s).resb.toNat < 2 ^ 16 ∧ (r.put s).resc.toNat ≤ 63 := by
  cases r with
  | registers => exact hr
  | none => exact hs
  | entry => exact hs
  | sector => exact hs

/-- Every entry block that a command writes is a decoded one; the others it keeps. -/
theorem Results.put_ent (r : Results) (s : State) (k : Fin 4) :
    (r.put s).ent.get k = s.ent.get k ∨ entBlockDecoded ((r.put s).ent.get k) = true := by
  cases r with
  | none => exact .inl rfl
  | registers => exact .inl rfl
  | entry e =>
    by_cases hk : k = 0
    · subst hk
      exact .inr (entBlockDecoded_entryBlock e)
    · exact .inl (EntFile.get_set_ne _ _ _ _ hk)
  | sector sig e =>
    have hget : ((Results.sector sig e).put s).ent.get k = entryBlock (decodeEntry (e k)) := by fin_cases k <;> rfl
    exact .inr (hget ▸ entBlockDecoded_entryBlock (e k))

/-- A `CMD` write keeps the invariant: it stores the word whose `OP` field its `STATUS` shows (R25). -/
theorem Inv.apply {s : State} (h : Inv s) {w : Word} {g : Ending} (hg : g.Legal (opField w)) :
    Inv (g.apply { s with cmd := w }) where
  buffer := (g.apply_inBuf _).symm ▸ h.buffer
  status := .inr hg.status
  op := (g.apply_cmd { s with cmd := w }).symm ▸ hg.op
  fresh hzero := absurd hzero (ne_zero_of_statusLegal hg.status)
  results := Results.put_bounded hg.bounded h.results
  entries k := by
    rcases g.results.put_ent { s with cmd := w } k with hsame | hdecoded
    · exact (h.entries k).imp hsame.trans fun hold => (congrArg entBlockDecoded hsame).trans hold
    · exact .inr hdecoded

/-- A host write to a register keeps the invariant. -/
theorem hostWriteReg_keeps_inv (r : Reg) (v : Word) {s t : State} (h : Inv s)
    (ht : hostWriteReg r v s = .next t) : Inv t := by
  cases r with
  | cmd =>
    obtain ⟨g, hlegal, hrun⟩ := runCommand_ending v { s with cmd := v }
    cases (hrun _ (sameInputs_refl _)).symm.trans ht
    exact h.apply hlegal
  | inLen | opaLo | opaHi | opb | opc =>
    cases ht
    exact h.of_unread
  | status | resaLo | resaHi | resb | resc | sig | ent =>
    cases ht
    exact h.refuseAccess _

/-- An allowed access to `IN_BUF` keeps the invariant: it lies inside the buffer (R65, R66). -/
theorem accessBuffer_keeps_inv {a : BusAccess} {s t : State} (h : Inv s) (hin : a.offset < 0x200)
    (hallowed : refusedAccess a = false) (ht : accessBuffer a s = .next t) : Inv t := by
  have hend : a.offset + a.bytes ≤ Config.mbrBytes := by
    by_contra hcross
    have : refusedAccess a = true :=
      (refusedAccess_iff a).mpr (.inr (.inr (.inr (.inr ((crossesBuffer_iff a).mpr ⟨hin, not_le.mp hcross⟩)))))
    exact absurd this (Bool.eq_false_iff.mp hallowed)
  obtain ⟨kind, offset, width⟩ := a
  cases kind with
  | read =>
    cases ht
    exact h.of_unread
  | write v =>
    cases ht
    exact h.memWrite v hend

theorem accessReg_keeps_inv (r : Reg) (k : AccessKind) {s t : State} (h : Inv s)
    (ht : accessReg r k s = .next t) : Inv t := by
  cases k with
  | read =>
    cases ht
    exact h.of_unread
  | write v => exact hostWriteReg_keeps_inv r v h ht

/-- Settles O53, by the cases of what a step can do. -/
theorem everyStepKeepsTheInvariant : Obligations.EveryStepKeepsTheInvariant := by
  intro s t h ht
  have htaken (rest : List Input) : Inv { s with inputs := rest } := h.of_unread
  rcases step_cases s with ⟨-, hidle⟩ | ⟨rest, -, hreset⟩ |
    ⟨a, rest, -, ⟨-, hrefused⟩ | ⟨hin, hallowed, hbuffer⟩ | ⟨-, -, -, r, -, hreg⟩⟩
  · cases hidle.symm.trans ht
    exact h
  · cases hreset.symm.trans ht
    exact platformReset_inv _
  · cases hrefused.symm.trans ht
    exact (htaken rest).refuseAccess _
  · exact accessBuffer_keeps_inv (htaken rest) hin hallowed (hbuffer.symm.trans ht)
  · exact accessReg_keeps_inv r a.kind (htaken rest) (hreg.symm.trans ht)

end Sys2Proof.Machine
end

section
/-! Which host accesses are refused, and what a refused one does (O41, O45): the checks of spec/20_memory.md R66 as one
condition on the access's own numbers, and the step that takes such an access. -/

namespace Sys2Proof.Machine

/-! ## The accesses R66 lists -/

/-- A write to a read-only register: to any byte of `STATUS`, or of a word from 0x220 on that is not reserved (R66). -/
theorem readOnlyWrite_iff (a : BusAccess) : readOnlyWrite a = true ↔
    a.kind ≠ .read ∧ 0x200 ≤ a.offset ∧ a.offset < 0x2C0 ∧ reservedOffset a.offset = false ∧
      (a.offset / 4 = 0x82 ∨ 0x220 ≤ a.offset) := by
  obtain ⟨kind, offset, width⟩ := a
  cases kind with
  | read => simp
  | write v => simp [readOnlyWrite_write_iff]

/-- The kinds of refused access inside the window, one by one, in the order of R66: misaligned; of a width not allowed
in `IN_BUF`, or above it; at a reserved offset; a write to a read-only register; crossing from `IN_BUF` into 0x200. -/
def ListedByR66 (a : BusAccess) : Prop :=
  a.offset % (a.width / 8) ≠ 0 ∨
    (a.offset < 0x200 ∧ a.width ≠ 8 ∧ a.width ≠ 16 ∧ a.width ≠ 32) ∨ (0x200 ≤ a.offset ∧ a.width ≠ 32) ∨
    a.offset / 4 * 4 = 0x20C ∨ (0x234 ≤ a.offset ∧ a.offset < 0x240) ∨ 0x2C0 ≤ a.offset ∨
    (a.kind ≠ .read ∧ (a.offset / 4 * 4 = 0x208 ∨ 0x220 ≤ a.offset)) ∨
    (a.offset < 0x200 ∧ 0x200 < a.offset + a.width / 8)

/-- The model's checks refuse, inside the window, exactly the accesses that R66 lists. -/
theorem refusedAccess_iff_listed (a : BusAccess) (hwindow : a.offset < 0x400) :
    refusedAccess a = true ↔ ListedByR66 a := by
  rw [refusedAccess_iff, misaligned_iff, widthRefused_iff, readOnlyWrite_iff, crossesBuffer_iff, ← Bool.not_eq_true,
    reservedOffset_iff, ListedByR66]
  by_cases hkind : a.kind = .read
  · simp only [hkind, ne_eq, not_true_eq_false, false_and, false_or]
    omega
  · simp only [hkind, ne_eq, not_false_eq_true, true_and]
    omega

/-- In `IN_BUF` the aligned accesses of 8, 16 and 32 bits are allowed (R64, R65). -/
theorem refusedAccess_buffer {a : BusAccess} (hlow : a.offset < 0x200)
    (hwidth : a.width = 8 ∨ a.width = 16 ∨ a.width = 32) (haligned : a.offset % (a.width / 8) = 0) :
    refusedAccess a = false := by
  rw [Bool.eq_false_iff, ne_eq, refusedAccess_iff_listed a (by omega), ListedByR66]
  have hinside : a.offset + a.width / 8 ≤ 0x200 := by
    obtain hwidth | hwidth | hwidth := hwidth <;> rw [hwidth] at haligned ⊢ <;> omega
  omega

/-- Above `IN_BUF` the aligned 32-bit accesses to the registers are allowed, but for a write to a read-only one (R64,
R66). -/
theorem refusedAccess_word {a : BusAccess} (hwidth : a.width = 32) (haligned : a.offset % 4 = 0)
    (habove : 0x200 ≤ a.offset) (hbelow : a.offset < 0x2C0) (h20C : a.offset ≠ 0x20C)
    (h234 : ¬(0x234 ≤ a.offset ∧ a.offset < 0x240))
    (hkind : a.kind = .read ∨ (a.offset ≠ 0x208 ∧ a.offset < 0x220)) : refusedAccess a = false := by
  rw [Bool.eq_false_iff, ne_eq, refusedAccess_iff_listed a (by omega), ListedByR66, hwidth]
  have hwrite : ¬(a.kind ≠ .read ∧ (a.offset / 4 * 4 = 0x208 ∨ 0x220 ≤ a.offset)) := by
    rintro ⟨hwrite, hreadOnly⟩
    have := hkind.resolve_left hwrite
    omega
  simp only [hwrite, false_or]
  omega

/-! ## What a refused access does -/

/-- The mark is set, a read returns nothing, and every other field is as before. -/
theorem State.refuseAccess_eq (s : State) (k : AccessKind) :
    s.refuseAccess k = { s with hostFault := true, lastRead := if k = .read then none else s.lastRead } := by
  cases k <;> rfl

/-- A step that takes a refused access. -/
theorem step_refused {s : State} {rest : List Input} {a : BusAccess} (hs : s.inputs = .access a :: rest)
    (ha : refusedAccess a = true) :
    step s = .next
      { s with inputs := rest, hostFault := true, lastRead := if a.kind = .read then none else s.lastRead } := by
  have hrefuse : step s = .next ({ s with inputs := rest }.refuseAccess a.kind) := by
    simp [step, hs, takeInput, performAccess, ha]
  rw [hrefuse, State.refuseAccess_eq]

/-- Settles O41: inside the window the listed accesses are the refused ones. -/
theorem refusedAccessSetsTheMarkOnly : Obligations.RefusedAccessSetsTheMarkOnly :=
  fun _ _ a hs hwindow hlisted => step_refused hs ((refusedAccess_iff_listed a hwindow).mpr hlisted)

/-- Settles O45: outside the window every access is refused. -/
theorem outsideTheWindowIsRefused : Obligations.OutsideTheWindowIsRefused :=
  fun _ _ a hs houtside => step_refused hs (refusedAccess_outside a houtside)

end Sys2Proof.Machine
end

section
/-! The host-fault mark (O42, O43, O44): a step that takes an access sets the mark exactly when the access is refused
(spec/20_memory.md R66), and no step clears it. -/

namespace Sys2Proof.Machine

/-! ## What an allowed access leaves of the mark and the inputs -/

theorem accessBuffer_next (a : BusAccess) (s : State) :
    ∃ t, accessBuffer a s = .next t ∧ t.inputs = s.inputs ∧ t.hostFault = s.hostFault := by
  obtain ⟨kind, offset, width⟩ := a
  cases kind with
  | read => exact ⟨_, rfl, rfl, rfl⟩
  | write v =>
    have hframe := s.memWrite_frame offset v (width / 8)
    exact ⟨_, rfl, (congrArg State.inputs hframe :), (congrArg State.hostFault hframe :)⟩

/-- A write to a register that is not read-only has a next state; where it runs a command, by `runCommand_next`. -/
theorem hostWriteReg_next {r : Reg} (hr : r.readOnly = false) (v : Word) (s : State) :
    ∃ t, hostWriteReg r v s = .next t ∧ t.inputs = s.inputs ∧ t.hostFault = s.hostFault := by
  cases r with
  | cmd =>
    obtain ⟨t, hrun, -, hinputs, hmark⟩ := runCommand_next v { s with cmd := v }
    exact ⟨t, hrun, hinputs, hmark⟩
  | inLen | opaLo | opaHi | opb | opc => exact ⟨_, rfl, rfl, rfl⟩
  | status | resaLo | resaHi | resb | resc | sig | ent => cases hr

theorem accessReg_next {r : Reg} {k : AccessKind} (hk : k = .read ∨ r.readOnly = false) (s : State) :
    ∃ t, accessReg r k s = .next t ∧ t.inputs = s.inputs ∧ t.hostFault = s.hostFault := by
  cases k with
  | read => exact ⟨_, rfl, rfl, rfl⟩
  | write v => exact hostWriteReg_next (by simpa using hk) v s

/-- An allowed access to a register is a read, or a write to a register that is not read-only (R66). -/
theorem readable_or_writable {a : BusAccess} {r : Reg} (habove : 0x200 ≤ a.offset) (ha : refusedAccess a = false)
    (hr : regAt a.offset = some r) : a.kind = .read ∨ r.readOnly = false := by
  have hallowed := Bool.eq_false_iff.mp ha
  rw [ne_eq, refusedAccess_iff, misaligned_iff, widthRefused_iff] at hallowed
  obtain ⟨kind, offset, width⟩ := a
  cases kind with
  | read => exact .inl rfl
  | write v =>
    have hwidth : width = 32 := by
      by_contra h
      exact hallowed (.inr (.inl (.inr ⟨habove, .inl h⟩)))
    subst hwidth
    have haligned : offset % 4 = 0 := by
      by_contra h
      exact hallowed (.inl (by simpa using h))
    refine .inr (Bool.eq_false_iff.mpr fun hreadOnly => hallowed (.inr (.inr (.inr (.inl ?_)))))
    simpa [readOnlyWrite, haligned, hr] using hreadOnly

/-! ## The mark along steps and runs -/

/-- A step that takes an access has a next state, with the mark set if it was set or the access is refused. -/
theorem step_access {s : State} {rest : List Input} {a : BusAccess} (hs : s.inputs = .access a :: rest) :
    ∃ t, step s = .next t ∧ t.inputs = rest ∧ t.hostFault = (s.hostFault || refusedAccess a) := by
  obtain ⟨hidle, -⟩ | ⟨_, hreset, -⟩ | ⟨b, rest', haccess, hcases⟩ := step_cases s
  · cases hs.symm.trans hidle
  · cases hs.symm.trans hreset
  · cases hs.symm.trans haccess
    obtain ⟨hrefused, hstep⟩ | ⟨-, hallowed, hstep⟩ | ⟨habove, -, hallowed, r, hr, hstep⟩ := hcases
    · exact ⟨_, hstep, rfl, by simp [hrefused]⟩
    · rw [hstep, hallowed, Bool.or_false]
      exact accessBuffer_next _ _
    · rw [hstep, hallowed, Bool.or_false]
      exact accessReg_next (readable_or_writable habove hallowed hr) _

/-- The mark, once set, is set after every step: one that idles, a reset, an access. -/
theorem step_keeps_mark {s : State} (hmark : s.hostFault = true) : ∃ t, step s = .next t ∧ t.hostFault = true := by
  obtain ⟨-, hidle⟩ | ⟨rest, -, hreset⟩ | ⟨a, rest, hs, -⟩ := step_cases s
  · exact ⟨s, hidle, hmark⟩
  · exact ⟨_, hreset, hmark⟩
  · obtain ⟨t, hstep, -, ht⟩ := step_access hs
    exact ⟨t, hstep, by rw [ht, hmark, Bool.true_or]⟩

theorem step_mark {s t : State} (hmark : s.hostFault = true) (ht : step s = .next t) : t.hostFault = true := by
  obtain ⟨u, hstep, hu⟩ := step_keeps_mark hmark
  cases hstep.symm.trans ht
  exact hu

/-- The mark, once set, is set after any number of steps. -/
theorem run_keeps_mark (n : Nat) {s : State} (hmark : s.hostFault = true) :
    ∃ t, run n s = .next t ∧ t.hostFault = true := by
  induction n generalizing s with
  | zero => exact ⟨s, rfl, hmark⟩
  | succ n ih =>
    obtain ⟨t, hstep, ht⟩ := step_keeps_mark hmark
    rw [run_succ n hstep]
    exact ih ht

/-- Settles O42: the accesses it speaks of are inside the window and none of R66's list. -/
theorem otherAccessesAreAllowed : Obligations.OtherAccessesAreAllowed := by
  intro s rest a hs hother
  have hallowed : refusedAccess a = false := by
    obtain ⟨hlow, hwidth, haligned⟩ | ⟨hwidth, haligned, habove, hbelow, h20C, h234, hkind⟩ := hother
    · exact refusedAccess_buffer hlow hwidth haligned
    · exact refusedAccess_word hwidth haligned habove hbelow h20C h234 hkind
  obtain ⟨t, hstep, hinputs, hmark⟩ := step_access hs
  exact ⟨t, hstep, by rw [hmark, hallowed, Bool.or_false], hinputs⟩

/-- Settles O43: no step clears the mark, one that takes an access among them. -/
theorem theMarkIsNeverClearedByAnAccess : Obligations.TheMarkIsNeverClearedByAnAccess :=
  fun _ _ _ _ _ => step_mark

/-- Settles O44: the refused access sets the mark, and the steps after it keep it. -/
theorem noRunIsSafeAfterARefusedAccess : Obligations.NoRunIsSafeAfterARefusedAccess := by
  refine ⟨fun _ _ => step_mark, fun n s a rest hs ha => ?_⟩
  obtain ⟨u, hstep, -, hset⟩ := step_access hs
  obtain ⟨t, hrun, hmark⟩ := run_keeps_mark n (hset.trans (by rw [ha, Bool.or_true]))
  exact ⟨t, (run_succ n hstep).trans hrun, by simp [State.safe, hmark]⟩

end Sys2Proof.Machine
end

section
/-! Host accesses to `IN_BUF` (O36, O37, O38): an aligned access of 1, 2 or 4 bytes is `MemWrite` or `MemRead` of
spec/20_memory.md R62 and R64 and nothing else. -/

namespace Sys2Proof.Machine

/-! ## Bytes as numbers -/

/-- Byte `j` of a word as a number (R64). -/
theorem wordByte_toNat (v : Word) (j : Nat) : (wordByte v j).toNat = v.toNat / 2 ^ (8 * j) % 256 := by
  rw [wordByte, BitVec.extractLsb'_toNat, Nat.shiftRight_eq_div_pow]

/-- `n` bytes make a number below `2^(8n)` (R13). -/
theorem State.memRead_lt (s : State) (a n : Nat) : s.memRead a n < 2 ^ (8 * n) := by
  induction n with
  | zero => exact Nat.one_pos
  | succ n ih =>
    have hbyte := Nat.mul_le_mul_right (2 ^ (8 * n)) (Nat.le_of_lt_succ (s.bufByte (a + n)).isLt)
    rw [State.memRead, Nat.mul_add, pow_add]
    omega

/-- Up to four bytes fit the 32-bit bus. -/
theorem State.memRead_fits (s : State) (a : Nat) {n : Nat} (hn : n ≤ 4) :
    (BitVec.ofNat 32 (s.memRead a n)).toNat = s.memRead a n :=
  (BitVec.toNat_ofNat _ _).trans <| Nat.mod_eq_of_lt <|
    (s.memRead_lt a n).trans_le (Nat.pow_le_pow_right Nat.two_pos (Nat.mul_le_mul_left 8 hn))

theorem State.memRead_one (s : State) (a : Nat) : s.memRead a 1 = (s.bufByte a).toNat := by
  simp [State.memRead]

theorem State.memRead_two (s : State) (a : Nat) :
    s.memRead a 2 = (s.bufByte a).toNat + (s.bufByte (a + 1)).toNat * 2 ^ 8 := by
  simp [State.memRead]

theorem State.memRead_four (s : State) (a : Nat) :
    s.memRead a 4 = (s.bufByte a).toNat + (s.bufByte (a + 1)).toNat * 2 ^ 8 + (s.bufByte (a + 2)).toNat * 2 ^ 16
      + (s.bufByte (a + 3)).toNat * 2 ^ 24 := by
  simp [State.memRead]

/-! ## The step that takes an access to `IN_BUF` -/

/-- A step that takes an aligned access of 1, 2 or 4 bytes at an offset of `IN_BUF` is that access to the buffer. -/
theorem step_buffer {s : State} {rest : List Input} {k : AccessKind} {a n : Nat} (hn : n = 1 ∨ n = 2 ∨ n = 4)
    (haligned : a % n = 0) (ha : a < 512)
    (hs : s.inputs = .access { kind := k, offset := a, width := 8 * n } :: rest) :
    step s = accessBuffer { kind := k, offset := a, width := 8 * n } { s with inputs := rest } := by
  have hallowed : refusedAccess { kind := k, offset := a, width := 8 * n } = false :=
    refusedAccess_buffer ha (by dsimp only; omega) (by simpa using haligned)
  simp [step, hs, takeInput, performAccess, hallowed, inBuffer_iff, ha]

/-- A step that takes an aligned host write to `IN_BUF` is `MemWrite` (R64). -/
theorem step_bufferWrite {s : State} {rest : List Input} {v : Word} {a n : Nat} (hn : n = 1 ∨ n = 2 ∨ n = 4)
    (haligned : a % n = 0) (ha : a < 512)
    (hs : s.inputs = .access { kind := .write v, offset := a, width := 8 * n } :: rest) :
    step s = .next ({ s with inputs := rest }.memWrite a v n) := by
  rw [step_buffer hn haligned ha hs]
  simp [accessBuffer, BusAccess.bytes]

/-- A step that takes an aligned host read of `IN_BUF` leaves what `MemRead` returns in `lastRead` and changes nothing
else (R62, R67). -/
theorem step_bufferRead {s : State} {rest : List Input} {a n : Nat} (hn : n = 1 ∨ n = 2 ∨ n = 4)
    (haligned : a % n = 0) (ha : a < 512)
    (hs : s.inputs = .access { kind := .read, offset := a, width := 8 * n } :: rest) :
    step s = .next { s with inputs := rest, lastRead := some (BitVec.ofNat 32 (s.memRead a n)) } := by
  have hread : { s with inputs := rest }.memRead a n = s.memRead a n := State.memRead_congr a n fun _ _ => rfl
  rw [step_buffer hn haligned ha hs]
  simp [accessBuffer, BusAccess.bytes, hread]

/-- Settles O36: `MemWrite` changes the buffer alone, and in it the bytes of the access alone. -/
theorem hostWriteToBuffer : Obligations.HostWriteToBuffer := by
  intro s rest a n v hn haligned ha hs
  refine ⟨_, step_bufferWrite hn haligned ha hs, State.memWrite_frame .., fun b => ?_⟩
  rw [State.bufByte_memWrite, apply_ite BitVec.toNat, wordByte_toNat]
  rfl

/-- Settles O37, width by width. -/
theorem hostReadOfBuffer : Obligations.HostReadOfBuffer := by
  intro s rest a ha
  refine ⟨fun hs => ?_, fun hs haligned => ?_, fun hs haligned => ?_⟩
  · exact ⟨_, step_bufferRead (n := 1) (by decide) (Nat.mod_one a) ha hs,
      (s.memRead_fits a (by decide)).trans (s.memRead_one a)⟩
  · exact ⟨_, step_bufferRead (n := 2) (by decide) haligned ha hs,
      (s.memRead_fits a (by decide)).trans (s.memRead_two a)⟩
  · exact ⟨_, step_bufferRead (n := 4) (by decide) haligned ha hs,
      (s.memRead_fits a (by decide)).trans (s.memRead_four a)⟩

/-- The word that a host reads at 440 is the disk signature (R182). -/
theorem State.memRead_440 (s : State) : BitVec.ofNat 32 (s.memRead 440 4) = s.diskSignature := by
  apply BitVec.eq_of_toNat_eq
  rw [s.memRead_fits 440 le_rfl, s.memRead_four, State.diskSignature, le32_toNat]

/-- Settles O38: the host and MBR_DECODE assemble the same four bytes. -/
theorem hostReadAt440IsTheSignature : Obligations.HostReadAt440IsTheSignature := by
  intro s rest hlen hs
  refine ⟨_, _, step_bufferRead (n := 4) (by decide) rfl (by decide) hs, exec_mbrDecode_done s hlen, ?_⟩
  exact congrArg some s.memRead_440

end Sys2Proof.Machine
end

section
/-! The buffer as data (O51): the canonical form of a buffer is determined by what its offsets read as
(spec/70_reset_and_hazards.md R235). -/

namespace Sys2Proof.Machine

/-- An offset below that of every entry reads as nothing. -/
theorem Memory.read_below {m : Memory} {a : Nat} (h : ∀ c ∈ m, a < c.1) : m.read a = none := by
  induction m with
  | nil => rfl
  | cons c m ih =>
    obtain ⟨hc, hm⟩ := List.forall_mem_cons.mp h
    rw [Memory.read, if_neg hc.ne]
    exact ih hm

theorem Memory.read_head (a : Nat) (v : Byte) (m : Memory) : Memory.read ((a, v) :: m) a = some v :=
  if_pos rfl

/-- A canonical buffer reads as nothing below its first entry. -/
theorem Memory.read_below_head {a b : Nat} {v : Byte} {m : Memory} (hm : Memory.wf ((a, v) :: m) = true) (hb : b < a) :
    Memory.read ((a, v) :: m) b = none := by
  obtain ⟨-, hrising, -⟩ := (Memory.wf_cons a v m).mp hm
  exact Memory.read_below (List.forall_mem_cons.mpr ⟨hb, fun c hc => hb.trans (hrising c hc)⟩)

/-- A buffer's first offset has a byte, so no canonical buffer that reads alike begins above it. -/
theorem Memory.head_le {a b : Nat} {v w : Byte} {m n : Memory} (hn : Memory.wf ((b, w) :: n) = true)
    (h : ∀ c, Memory.read ((a, v) :: m) c = Memory.read ((b, w) :: n) c) : b ≤ a := by
  by_contra hlt
  have hnone := (h a).trans (Memory.read_below_head hn (not_le.mp hlt))
  rw [Memory.read_head] at hnone
  cases hnone

/-- Canonical buffers that read alike are the same list. -/
theorem Memory.ext_read {m n : Memory} (hm : m.wf = true) (hn : n.wf = true) (h : ∀ a, m.read a = n.read a) :
    m = n := by
  induction m generalizing n with
  | nil =>
    cases n with
    | nil => rfl
    | cons d n => cases (h d.1).trans (Memory.read_head d.1 d.2 n)
  | cons c m ih =>
    obtain ⟨a, v⟩ := c
    cases n with
    | nil => cases (Memory.read_head a v m).symm.trans (h a)
    | cons d n =>
      obtain ⟨b, w⟩ := d
      obtain rfl : a = b := le_antisymm (Memory.head_le hm fun c => (h c).symm) (Memory.head_le hn h)
      obtain rfl : v = w := by simpa [Memory.read_head] using h a
      obtain ⟨-, hmrising, hmtail⟩ := (Memory.wf_cons a v m).mp hm
      obtain ⟨-, hnrising, hntail⟩ := (Memory.wf_cons a v n).mp hn
      have htail (c : Nat) : Memory.read m c = Memory.read n c := by
        by_cases hc : c = a
        · rw [hc, Memory.read_below hmrising, Memory.read_below hnrising]
        · simpa [Memory.read, hc] using h c
      rw [ih hmtail hntail htail]

/-- Writes to different bytes commute: both orders give canonical buffers that read alike (R69). -/
theorem Memory.write_comm {m : Memory} (hm : m.wf = true) {a b : Nat} (ha : a < Config.mbrBytes)
    (hb : b < Config.mbrBytes) (hab : a ≠ b) (v w : Byte) : (m.write a v).write b w = (m.write b w).write a v := by
  refine Memory.ext_read (Memory.write_wf _ b w (m.write_wf a v hm ha) hb)
    (Memory.write_wf _ a v (m.write_wf b w hm hb) ha) fun c => ?_
  simp only [Memory.read_write]
  by_cases hc : c = b
  · rw [if_pos hc, if_neg (hc ▸ hab.symm), if_pos hc]
  · rw [if_neg hc, if_neg hc]

/-- Settles O51: the reads determine a canonical buffer, and they do not show the order of two writes. -/
theorem equalBuffersAreEqualData : Obligations.EqualBuffersAreEqualData :=
  ⟨fun _ _ => Memory.ext_read, fun _ _ _ v w hm ha hb hab => Memory.write_comm hm ha hb hab v w⟩

end Sys2Proof.Machine
end

section
/-! The window's base (O48) and the platform's reset within a run (O50). -/

namespace Sys2Proof.Machine

/-- An address is in a window exactly when it is the base plus an offset of the window (R60, R71). -/
theorem windowOffset_eq_some_iff (base addr off : Nat) :
    windowOffset base addr = some off ↔ off < 1024 ∧ addr = base + off := by
  unfold windowOffset Config.windowBytes
  split
  · rw [Option.some.injEq]
    omega
  · simp only [reduceCtorEq, false_iff]
    omega

/-- The base is aligned to 1024 bytes (R71). -/
theorem windowBase_aligned : Config.windowBase % 1024 = 0 := Nat.mul_mod_right _ _

/-- Settles O48: each width divides the base's alignment, so the offset alone decides. -/
theorem windowStandsAtItsBase : Obligations.WindowStandsAtItsBase := by
  refine ⟨windowBase_aligned, windowOffset_eq_some_iff _, fun addr off n hn haddr => ?_⟩
  have hbase := windowBase_aligned
  obtain ⟨-, rfl⟩ := (windowOffset_eq_some_iff _ _ _).mp haddr
  obtain rfl | rfl | rfl := hn <;> omega

/-- A step that takes the platform's reset (R233). -/
theorem step_reset {s : State} {rest : List Input} (hs : s.inputs = .reset :: rest) :
    step s = .next { s with inputs := rest }.platformReset := by
  rw [step, hs]
  rfl

/-- Settles O50: the fields of `State.platformReset`. -/
theorem platformResetRestoresTheDevice : Obligations.PlatformResetRestoresTheDevice :=
  fun _ _ hs => step_reset hs

end Sys2Proof.Machine
end

section
/-! Command words (O1, O2, O4): a word is its `RSV` field above its `OP` field (spec/30_encoding.md R80), so a word that
decodes is its command's word, and the legal words are the numbers 1 to 6. What an illegal word does follows. -/

namespace Sys2Proof.Machine

/-! ## The decoder and the encoder -/

/-- A word is its two fields (R80). -/
theorem rsvField_append_opField (w : Word) : rsvField w ++ opField w = w := by
  apply BitVec.eq_of_toNat_eq
  rw [toNat_append_add]
  simp [rsvField, opField, Nat.shiftRight_eq_div_pow]
  omega

/-- A word with a reserved bit set decodes to no command (R81, R83). -/
theorem rsvField_of_decode {w : Word} {i : Instr} (h : decode w = .ok i) : rsvField w = 0#28 := by
  by_contra hrsv
  simp [decode, hrsv] at h

theorem decode_encode (i : Instr) : decode (encode i) = .ok i := by
  cases i <;> rfl

/-- Each command has one word, and each legal word is one command's (R81, R82). -/
theorem decode_eq_ok_iff (w : Word) (i : Instr) : decode w = .ok i ↔ w = encode i := by
  constructor
  · intro h
    rw [← rsvField_append_opField w, rsvField_of_decode h, opField_of_decode h, encode]
  · rintro rfl
    exact decode_encode i

theorem encode_toNat (i : Instr) : (encode i).toNat = i.opcode.toNat := by
  rw [encode, toNat_append_add]
  simp

/-- The opcodes of the table are 1 to 6 (R82). -/
theorem exists_opcode_toNat_iff (n : Nat) : (∃ i : Instr, i.opcode.toNat = n) ↔ 1 ≤ n ∧ n ≤ 6 := by
  constructor
  · rintro ⟨i, rfl⟩
    cases i <;> decide
  · rintro ⟨hlow, hhigh⟩
    interval_cases n
    · exact ⟨.varintEncode, rfl⟩
    · exact ⟨.varintDecode, rfl⟩
    · exact ⟨.chsToLba, rfl⟩
    · exact ⟨.lbaToChs, rfl⟩
    · exact ⟨.entryDecode, rfl⟩
    · exact ⟨.mbrDecode, rfl⟩

/-- The legal words are the numbers 1 to 6 (R82, R83). -/
theorem exists_decode_iff (w : Word) : (∃ i, decode w = .ok i) ↔ 1 ≤ w.toNat ∧ w.toNat ≤ 6 := by
  simp only [decode_eq_ok_iff, ← BitVec.toNat_inj, encode_toNat, eq_comm (a := w.toNat), exists_opcode_toNat_iff]

/-- Settles O2: the decoder inverts the encoder on both sides, and the words with an encoding are 1 to 6. -/
theorem decodeReadsExactlyTheEncodings : Obligations.DecodeReadsExactlyTheEncodings :=
  ⟨fun i _ => decode_encode i, fun w i => (decode_eq_ok_iff w i).mp, exists_decode_iff⟩

/-- Settles O1: the six words are encodings, and the decoder's checks name the fault of each of the others. -/
theorem tableWordsDecode : Obligations.TableWordsDecode :=
  ⟨decode_encode .varintEncode, decode_encode .varintDecode, decode_encode .chsToLba, decode_encode .lbaToChs,
    decode_encode .entryDecode, decode_encode .mbrDecode, rfl, rfl, rfl, rfl, rfl⟩

/-! ## Illegal words -/

/-- The words that R83 calls illegal, by `OP` and `RSV`, are those the decoder rejects. -/
theorem decode_error_of_illegal {w : Word} (h : w.toNat % 16 = 0 ∨ 7 ≤ w.toNat % 16 ∨ w.toNat / 16 ≠ 0) :
    ∃ e, decode w = .error e := by
  cases hw : decode w with
  | error e => exact ⟨e, rfl⟩
  | ok i =>
    have hlegal := (exists_decode_iff w).mp ⟨i, hw⟩
    omega

/-- The `STATUS` word of an illegal command: `OP` above ERR = 2 (R83, R203). -/
theorem statusWord_illegalCommand : ∀ op : BitVec 4,
    statusWord op .illegalCommand false false = 0#16 ++ op ++ 0x020#12 := by
  decide

/-- Settles O4: the decoder rejects the word, so the `CMD` write stores it and raises IllegalCommand under its `OP`. -/
theorem illegalWordWritesStatusOnly : Obligations.IllegalWordWritesStatusOnly := by
  intro s rest w hs hillegal
  obtain ⟨e, he⟩ := decode_error_of_illegal hillegal
  have hword : statusWord (opField w) .illegalCommand false false = 0#16 ++ w.extractLsb' 0 4 ++ 0x020#12 :=
    statusWord_illegalCommand (opField w)
  rw [← hword]
  exact ⟨(step_register .cmd hs (.inr rfl)).trans (runCommand_error he _),
    ne_zero_of_statusLegal (statusLegal_illegalCommand (opField w)).1⟩

end Sys2Proof.Machine
end

section
/-! The stream format (O6, O8): both the value of a stream and its packed form give its first byte and the value or the
packed form of the rest, and a stream with no last byte 0 is empty exactly where they are 0 (spec/30_encoding.md R92 to
R96). -/

namespace Sys2Proof.Machine

/-! ## Streams with no last byte 0 -/

/-- Without its first byte a stream still has no last byte 0. -/
theorem getLast?_tail_ne_zero {b : Byte} {s : List Byte} (h : (b :: s).getLast? ≠ some 0#8) :
    s.getLast? ≠ some 0#8 := by
  cases s with
  | nil => simp
  | cons c s => rwa [List.getLast?_cons_cons] at h

theorem getLast?_ne_zero_iff (st : List Byte) :
    st.getLast? ≠ some 0#8 ↔ st = [] ∨ ∃ b, st.getLast? = some b ∧ b ≠ 0#8 := by
  rw [← List.getLast?_eq_none_iff]
  cases st.getLast? <;> simp

/-! ## The value of a stream -/

/-- A stream is well formed when its first byte continues exactly where more bytes follow, and the rest is well formed
(R94). -/
theorem streamWellFormed_cons (b : Byte) (s : List Byte) :
    streamWellFormed (b :: s) = true ↔ continuation b = !s.isEmpty ∧ streamWellFormed s = true := by
  cases s <;> simp [streamWellFormed]

theorem group_lt (b : Byte) : group b < 2 ^ 7 := (b.extractLsb' 0 7).isLt

/-- A byte is determined by its group and its continuation bit (R92). -/
theorem byte_ext {b c : Byte} (hgroup : group b = group c) (hcont : continuation b = continuation c) : b = c := by
  apply BitVec.eq_of_toNat_eq
  rw [byte_eq_group_continuation, byte_eq_group_continuation, hgroup, hcont]

/-- The groups of a stream are the digits of its value (R93). -/
theorem streamValue_cons_inj {b c : Byte} {s t : List Byte} (h : streamValue (b :: s) = streamValue (c :: t)) :
    group b = group c ∧ streamValue s = streamValue t := by
  have hb := group_lt b
  have hc := group_lt c
  simp only [streamValue] at h
  omega

/-- A well-formed stream of value 0 is empty or has the last byte 0. -/
theorem streamValue_ne_zero {st : List Byte} (hwf : streamWellFormed st = true) (hlast : st.getLast? ≠ some 0#8)
    (hne : st ≠ []) : streamValue st ≠ 0 := by
  induction st with
  | nil => exact absurd rfl hne
  | cons b s ih =>
    obtain ⟨hcont, hs⟩ := (streamWellFormed_cons b s).mp hwf
    intro hzero
    obtain ⟨hgroup, hrest⟩ : group b = 0 ∧ streamValue s = 0 := by
      simp only [streamValue] at hzero
      omega
    obtain rfl | hnil := eq_or_ne s []
    · exact hlast (congrArg some (byte_ext hgroup hcont))
    · exact ih hs (getLast?_tail_ne_zero hlast) hnil hrest

/-- Settles O6, by induction on both streams: the value gives the first group and the value of the rest, and the rest
gives the first continuation bit. -/
theorem streamIsDeterminedByItsValue : Obligations.StreamIsDeterminedByItsValue := by
  intro st
  induction st with
  | nil =>
    intro tu _ htu _ hlast hvalue
    by_contra hne
    exact streamValue_ne_zero htu hlast (Ne.symm hne) hvalue.symm
  | cons b s ih =>
    intro tu hst htu hlast hlast' hvalue
    cases tu with
    | nil => exact absurd hvalue (streamValue_ne_zero hst hlast (List.cons_ne_nil b s))
    | cons c t =>
      obtain ⟨hcontb, hs⟩ := (streamWellFormed_cons b s).mp hst
      obtain ⟨hcontc, ht⟩ := (streamWellFormed_cons c t).mp htu
      obtain ⟨hgroup, hrest⟩ := streamValue_cons_inj hvalue
      obtain rfl := ih t hs ht (getLast?_tail_ne_zero hlast) (getLast?_tail_ne_zero hlast') hrest
      rw [byte_ext hgroup (hcontb.trans hcontc.symm)]

/-! ## The packed form of a stream -/

/-- The packed form is 0 only where the stream is empty or has the last byte 0 (R95). -/
theorem pack_ne_zero {st : List Byte} (hlast : st.getLast? ≠ some 0#8) (hne : st ≠ []) : pack st ≠ 0 := by
  induction st with
  | nil => exact absurd rfl hne
  | cons b s ih =>
    intro hzero
    obtain ⟨hbyte, hrest⟩ : b.toNat = 0 ∧ pack s = 0 := by
      simp only [pack] at hzero
      omega
    obtain rfl | hnil := eq_or_ne s []
    · exact hlast (congrArg some (BitVec.eq_of_toNat_eq hbyte))
    · exact ih (getLast?_tail_ne_zero hlast) hnil hrest

/-- `unpack` returns no last byte 0 (R96). -/
theorem unpack_getLast?_ne_zero (p : Nat) : (unpack p).getLast? ≠ some 0#8 := by
  induction p using Nat.strong_induction_on with
  | _ p ih =>
    obtain rfl | hp := eq_or_ne p 0
    · simp
    rw [unpack_of_ne_zero p hp]
    obtain hq | hq := eq_or_ne (p / 256) 0
    · have hlow : p % 256 ≠ 0 := by omega
      simpa [hq, ← BitVec.toNat_inj] using hlow
    · rw [unpack_of_ne_zero _ hq, List.getLast?_cons_cons, ← unpack_of_ne_zero _ hq]
      exact ih _ (by omega)

/-- `unpack` inverts `pack` on the streams with no last byte 0 (R96). -/
theorem unpack_pack {st : List Byte} (hlast : st.getLast? ≠ some 0#8) : unpack (pack st) = st := by
  induction st with
  | nil => rfl
  | cons b s ih =>
    have hb := b.isLt
    have hlow : BitVec.ofNat 8 (pack (b :: s)) = b := by
      apply BitVec.eq_of_toNat_eq
      simpa [pack] using hb
    have hrest : pack (b :: s) / 256 = pack s := by
      simp only [pack]
      omega
    rw [unpack_of_ne_zero _ (pack_ne_zero hlast (List.cons_ne_nil b s)), hlow, hrest, ih (getLast?_tail_ne_zero hlast)]

theorem unpack_pack_iff (st : List Byte) : unpack (pack st) = st ↔ st.getLast? ≠ some 0#8 :=
  ⟨fun h => h ▸ unpack_getLast?_ne_zero (pack st), unpack_pack⟩

/-- The byte 0 carries nothing into the packed form where it stands last (R96). -/
theorem pack_append_zero (st : List Byte) : pack (st ++ [0#8]) = pack st := by
  induction st with
  | nil => rfl
  | cons b s ih => rw [List.cons_append, pack, ih, pack]

/-! ## The encoder's stream -/

/-- The encoder writes no byte 0: a byte has its continuation bit set or is the last nonzero group (R110). -/
theorem ne_zero_of_mem_varintGroups {fuel n : Nat} {b : Byte} (h : b ∈ varintGroups fuel n) : b ≠ 0#8 := by
  induction fuel generalizing n with
  | zero => cases h
  | succ fuel ih =>
    obtain rfl | hn := eq_or_ne n 0
    · simp at h
    rw [varintGroups_of_ne_zero fuel n hn, List.mem_cons] at h
    obtain rfl | hrest := h
    · rw [ne_eq, ← BitVec.toNat_inj, BitVec.toNat_ofNat, BitVec.toNat_ofNat]
      split <;> omega
    · exact ih hrest

theorem varintEncode_getLast?_ne_zero (n : BitVec 64) : (varintEncode n).getLast? ≠ some 0#8 :=
  fun h => ne_zero_of_mem_varintGroups (List.mem_of_getLast? h) rfl

/-- Settles O8: packing loses trailing bytes 0 and nothing else, and the encoder writes none. -/
theorem unpackPackConsequences : Obligations.UnpackPackConsequences :=
  ⟨fun st => (unpack_pack_iff st).trans (getLast?_ne_zero_iff st),
    fun n => unpack_pack (varintEncode_getLast?_ne_zero n),
    pack_append_zero, (congrArg unpack (pack_append_zero [0x80#8])).trans (unpack_pack (by decide)),
    rfl, rfl, pack_append_zero [], unpack_zero⟩

end Sys2Proof.Machine
end

section
/-! The varint encoder (O5, O7): its loop peels one group per round, and each round adds one byte to the stream, one
group to its value and one unit to its length (spec/41_varint.md R110 to R112). -/

namespace Sys2Proof.Machine

/-! ## The encoder's loop -/

/-- A round of the loop leaves a number that the remaining rounds can encode. -/
theorem div_two_pow_seven_lt {fuel n : Nat} (h : n < 2 ^ (7 * (fuel + 1))) : n / 2 ^ 7 < 2 ^ (7 * fuel) := by
  apply Nat.div_lt_of_lt_mul
  rwa [← pow_add, Nat.add_comm, ← Nat.mul_succ]

/-- A byte's group and continuation bit are the two digits of its number (R92). -/
theorem group_continuation_of_toNat {b : Byte} {g : Nat} {c : Bool} (hg : g < 2 ^ 7)
    (h : b.toNat = g + 2 ^ 7 * c.toNat) : group b = g ∧ continuation b = c := by
  have hb := group_lt b
  have hsplit := byte_eq_group_continuation b
  have hcont : (continuation b).toNat = c.toNat := by omega
  refine ⟨by omega, ?_⟩
  rw [Bool.eq_iff_iff, ← Bool.toNat_eq_one, hcont, Bool.toNat_eq_one]

/-- One round of the loop: the low 7 bits as the group, the continuation bit where bits remain (R110). -/
theorem varintGroups_round (fuel : Nat) {n : Nat} (hn : n ≠ 0) :
    ∃ b, varintGroups (fuel + 1) n = b :: varintGroups fuel (n / 2 ^ 7) ∧ group b = n % 2 ^ 7 ∧
      continuation b = decide (n / 2 ^ 7 ≠ 0) := by
  refine ⟨_, varintGroups_of_ne_zero fuel n hn, group_continuation_of_toNat (Nat.mod_lt _ (by decide)) ?_⟩
  rw [BitVec.toNat_ofNat]
  by_cases hrest : n / 2 ^ 7 = 0
  · simp only [hrest, if_true, ne_eq, not_true_eq_false, decide_false, Bool.toNat_false]
    omega
  · simp only [hrest, if_false, ne_eq, not_false_eq_true, decide_true, Bool.toNat_true]
    omega

/-- The encoder's stream has the value it encodes. -/
theorem streamValue_varintGroups {fuel n : Nat} (h : n < 2 ^ (7 * fuel)) : streamValue (varintGroups fuel n) = n := by
  induction fuel generalizing n with
  | zero =>
    obtain rfl : n = 0 := by simpa using h
    rfl
  | succ fuel ih =>
    obtain rfl | hn := eq_or_ne n 0
    · simp [streamValue]
    obtain ⟨b, hround, hgroup, -⟩ := varintGroups_round fuel hn
    rw [hround, streamValue, hgroup, ih (div_two_pow_seven_lt h), Nat.mod_add_div]

theorem varintGroups_eq_nil_iff {fuel n : Nat} (h : n < 2 ^ (7 * fuel)) : varintGroups fuel n = [] ↔ n = 0 :=
  ⟨fun hnil => (streamValue_varintGroups h).symm.trans (congrArg streamValue hnil),
    fun hn => hn ▸ varintGroups_zero fuel⟩

/-- The encoder sets the continuation bit exactly where more bytes follow. -/
theorem streamWellFormed_varintGroups {fuel n : Nat} (h : n < 2 ^ (7 * fuel)) :
    streamWellFormed (varintGroups fuel n) = true := by
  induction fuel generalizing n with
  | zero => rfl
  | succ fuel ih =>
    obtain rfl | hn := eq_or_ne n 0
    · simp [streamWellFormed]
    obtain ⟨b, hround, -, hcont⟩ := varintGroups_round fuel hn
    have hrest := div_two_pow_seven_lt h
    have hempty : (varintGroups fuel (n / 2 ^ 7)).isEmpty = decide (n / 2 ^ 7 = 0) := by
      rw [Bool.eq_iff_iff, List.isEmpty_iff, decide_eq_true_iff, varintGroups_eq_nil_iff hrest]
    rw [hround, streamWellFormed_cons, hcont, hempty]
    exact ⟨decide_not, ih hrest⟩

/-! ## The length of the encoder's stream -/

theorem bitlen_div_two_pow (p k : Nat) : bitlen (p / 2 ^ k) = bitlen p - k := by
  refine eq_of_forall_ge_iff fun j => ?_
  rw [bitlen_le_iff, Nat.sub_le_iff_le_add, bitlen_le_iff, pow_add, Nat.div_lt_iff_lt_mul (by positivity)]

theorem bitlen_pos {p : Nat} (h : p ≠ 0) : 0 < bitlen p :=
  Nat.pos_of_ne_zero fun h0 => h (by simpa using (bitlen_le_iff p 0).mp h0.le)

/-- A stream holds at least as many groups as its value has (R93). -/
theorem groupCount_streamValue_le (st : List Byte) : (bitlen (streamValue st) + 6) / 7 ≤ st.length := by
  have hbits := (bitlen_le_iff _ _).mpr (streamValue_lt st)
  omega

theorem varintGroups_length {fuel n : Nat} (h : n < 2 ^ (7 * fuel)) :
    (varintGroups fuel n).length = (bitlen n + 6) / 7 := by
  induction fuel generalizing n with
  | zero =>
    obtain rfl : n = 0 := by simpa using h
    rfl
  | succ fuel ih =>
    obtain rfl | hn := eq_or_ne n 0
    · simp [bitlen]
    rw [varintGroups_of_ne_zero fuel n hn, List.length_cons, ih (div_two_pow_seven_lt h), bitlen_div_two_pow]
    have hpos := bitlen_pos hn
    omega

/-! ## The continuation bits of a well-formed stream -/

theorem continuation_of_mem_dropLast {st : List Byte} (hwf : streamWellFormed st = true) :
    ∀ b ∈ st.dropLast, continuation b = true := by
  induction st with
  | nil => simp
  | cons b s ih =>
    obtain ⟨hcont, hs⟩ := (streamWellFormed_cons b s).mp hwf
    cases s with
    | nil => simp
    | cons c s =>
      rw [List.dropLast_cons_cons, List.forall_mem_cons]
      exact ⟨hcont, ih hs⟩

theorem continuation_of_getLast? {st : List Byte} (hwf : streamWellFormed st = true) {b : Byte}
    (hlast : st.getLast? = some b) : continuation b = false := by
  induction st with
  | nil => simp at hlast
  | cons c s ih =>
    obtain ⟨hcont, hs⟩ := (streamWellFormed_cons c s).mp hwf
    cases s with
    | nil =>
      obtain rfl : c = b := by simpa using hlast
      exact hcont
    | cons d s => exact ih hs (by rwa [List.getLast?_cons_cons] at hlast)

/-- Settles O7: the length by induction on the rounds, the bits and the last byte from well-formedness and the absence
of bytes 0, minimality from the value. -/
theorem varintEncodeStreamProperties : Obligations.VarintEncodeStreamProperties := by
  intro fuel n hpos hn
  have hlen := varintGroups_length hn
  have hwf := streamWellFormed_varintGroups hn
  have hne : varintGroups fuel n ≠ [] := fun hnil => hpos.ne' ((varintGroups_eq_nil_iff hn).mp hnil)
  have hlast := List.getLast?_eq_some_getLast hne
  have hnonzero := ne_zero_of_mem_varintGroups (List.getLast_mem hne)
  refine ⟨hlen, continuation_of_mem_dropLast hwf, ⟨_, hlast, hnonzero, continuation_of_getLast? hwf hlast⟩, hwf,
    ?minimal, unpack_pack (by rw [hlast]; simpa using hnonzero), ?bound⟩
  case minimal =>
    rintro st rfl
    exact hlen.trans_le (groupCount_streamValue_le st)
  case bound =>
    intro h64
    have hbits := (bitlen_le_iff n 64).mpr h64
    omega

/-! ## The encoder on the 64-bit operand -/

theorem toNat_lt_encodable (n : BitVec 64) : n.toNat < 2 ^ (7 * Config.varintMaxBytes) :=
  n.isLt.trans (by decide)

theorem streamValue_varintEncode (n : BitVec 64) : streamValue (varintEncode n) = n.toNat :=
  streamValue_varintGroups (toNat_lt_encodable n)

theorem streamWellFormed_varintEncode (n : BitVec 64) : streamWellFormed (varintEncode n) = true :=
  streamWellFormed_varintGroups (toNat_lt_encodable n)

theorem varintEncode_length_le (n : BitVec 64) : (varintEncode n).length ≤ 10 := by
  have hlen : (varintEncode n).length = (bitlen n.toNat + 6) / 7 := varintGroups_length (toNat_lt_encodable n)
  have hbits := (bitlen_le_iff n.toNat 64).mpr n.isLt
  omega

theorem pack_varintEncode_lt (n : BitVec 64) : pack (varintEncode n) < 2 ^ 80 :=
  (pack_lt _).trans_le (Nat.pow_le_pow_right (by decide) (Nat.mul_le_mul_left 8 (varintEncode_length_le n)))

/-! ## The result registers as parts of a number -/

/-- A field of a word made from a number is the number shifted down to it. -/
theorem extractLsb'_ofNat {w start len : Nat} (n : Nat) (h : start + len ≤ w) :
    (BitVec.ofNat w n).extractLsb' start len = BitVec.ofNat len (n / 2 ^ start) := by
  apply BitVec.eq_of_toNat_eq
  rw [BitVec.extractLsb'_toNat, BitVec.toNat_ofNat, BitVec.toNat_ofNat, Nat.shiftRight_eq_div_pow]
  obtain ⟨k, rfl⟩ := Nat.exists_eq_add_of_le h
  rw [pow_add, pow_add, Nat.mul_assoc, Nat.mod_mul_right_div_self, Nat.mod_mul_right_mod]

/-- `RESA` holds a number's low 64 bits, in two registers (R27). -/
theorem State.setResults_ofNat (s : State) (v : Nat) (b c : Word) :
    s.setResults (BitVec.ofNat 64 v) b c =
      { s with resaLo := BitVec.ofNat 32 v, resaHi := BitVec.ofNat 32 (v / 2 ^ 32), resb := b, resc := c } := by
  rw [State.setResults, extractLsb'_ofNat v (by decide), extractLsb'_ofNat v (by decide), pow_zero, Nat.div_one]

/-- `RESB` holds bits 79 to 64 of the packed stream (R111). -/
theorem setWidth_upper_ofNat {p : Nat} (hp : p < 2 ^ 80) :
    ((BitVec.ofNat 80 p).extractLsb' 64 16).setWidth 32 = BitVec.ofNat 32 (p / 2 ^ 64) := by
  apply BitVec.eq_of_toNat_eq
  rw [extractLsb'_ofNat p (by decide), BitVec.toNat_setWidth, BitVec.toNat_ofNat, BitVec.toNat_ofNat]
  omega

/-- What VARINT_ENCODE writes, register by register (R111). -/
theorem exec_varintEncode_stream (s : State) :
    exec .varintEncode s = .next
      { s with
        resaLo := BitVec.ofNat 32 (pack (varintEncode s.opa))
        resaHi := BitVec.ofNat 32 (pack (varintEncode s.opa) / 2 ^ 32)
        resb := BitVec.ofNat 32 (pack (varintEncode s.opa) / 2 ^ 64)
        resc := BitVec.ofNat 32 (varintEncode s.opa).length
        status := 0x1001#32 } := by
  rw [exec_varintEncode, extractLsb'_ofNat _ (by decide), pow_zero, Nat.div_one, State.setResults_ofNat,
    setWidth_upper_ofNat (pack_varintEncode_lt s.opa)]
  rfl

/-- Settles O5 with the stream of the encoder's loop. -/
theorem varintEncodeWritesTheStreamOfOpa : Obligations.VarintEncodeWritesTheStreamOfOpa := by
  intro s
  exact ⟨varintEncode s.opa, (streamValue_varintEncode s.opa).trans s.opa_toNat, streamWellFormed_varintEncode s.opa,
    varintEncode_getLast?_ne_zero s.opa, varintEncode_length_le s.opa, pack_varintEncode_lt s.opa,
    exec_varintEncode_stream s⟩

end Sys2Proof.Machine
end

section
/-! The varint decoder (O9, O11, O12, O13, O14): every operand is the packed form of one stream with no last byte 0, and
what VARINT_DECODE leaves is a function of that stream (spec/41_varint.md R113 to R121). -/

namespace Sys2Proof.Machine

/-! ## The stream of an operand -/

/-- `pack` inverts `unpack` on every number (R95). -/
theorem pack_unpack (p : Nat) : pack (unpack p) = p := by
  induction p using Nat.strong_induction_on with
  | _ p ih =>
    obtain rfl | hp := eq_or_ne p 0
    · rfl
    rw [unpack_of_ne_zero p hp, pack, ih _ (by omega), BitVec.toNat_ofNat]
    omega

/-- The byte count of a stream with no last byte 0 is that of its packed form (R115). -/
theorem length_eq_byteCount {st : List Byte} (hlast : st.getLast? ≠ some 0#8) :
    st.length = (bitlen (pack st) + 7) / 8 := by
  rw [← unpack_length, unpack_pack hlast]

/-- The operand of VARINT_DECODE is the packed form of a stream of at most 10 bytes (R114). -/
theorem State.exists_operandStream (s : State) (hupper : s.opb.toNat < 2 ^ 16) :
    ∃ st : List Byte, pack st = s.opb.toNat * 2 ^ 64 + s.opaHi.toNat * 2 ^ 32 + s.opaLo.toNat ∧
      st.getLast? ≠ some 0#8 ∧ st.length ≤ 10 := by
  refine ⟨unpack s.packedOperand.toNat, ?_, unpack_getLast?_ne_zero _, ?_⟩
  · rw [pack_unpack, s.packedOperand_toNat hupper]
  · have hbits := (bitlen_le_iff _ 80).mpr s.packedOperand.isLt
    rw [unpack_length]
    omega

/-- What VARINT_DECODE writes, register by register, for the stream its operand packs (R114). -/
theorem exec_varintDecode_stream {s : State} {st : List Byte} (hupper : s.opb.toNat < 2 ^ 16)
    (hpack : pack st = s.opb.toNat * 2 ^ 64 + s.opaHi.toNat * 2 ^ 32 + s.opaLo.toNat)
    (hlast : st.getLast? ≠ some 0#8) :
    exec .varintDecode s = .next
      { s with
        resaLo := BitVec.ofNat 32 (streamValue st)
        resaHi := BitVec.ofNat 32 (streamValue st / 2 ^ 32)
        resb := 0
        resc := BitVec.ofNat 32 st.length
        status := statusWord 0x2#4
          (varintErr (!streamWellFormed st) (decide (2 ^ 64 ≤ streamValue st)))
          (!streamWellFormed st) (decide (2 ^ 64 ≤ streamValue st)) } := by
  have hoperand : unpack s.packedOperand.toNat = st := by
    rw [s.packedOperand_toNat hupper, ← hpack, unpack_pack hlast]
  rw [exec_varintDecode_done s (s.opbUpper_eq_zero_iff.mpr hupper), varintDecode, hoperand, State.setResults_ofNat]
  rfl

/-- Settles O9 with the stream that the operand unpacks to. -/
theorem varintDecodeWritesTheValueOfTheStream : Obligations.VarintDecodeWritesTheValueOfTheStream := by
  intro s hupper
  obtain ⟨st, hpack, hlast, hlen⟩ := s.exists_operandStream hupper
  refine ⟨st, hpack, hlast, length_eq_byteCount hlast, hlen, ?_⟩
  rw [exec_varintDecode_stream hupper hpack hlast, statusWord_varintDecode]

/-! ## The verdicts in `STATUS` -/

/-- `MALF` and `OVF` are the two verdicts, and `ERR` is 0 without either (R114, R204). -/
theorem statusFields_varintDecode : ∀ malf ovf : Bool,
    statusMalf (statusWord 0x2#4 (varintErr malf ovf) malf ovf) = malf ∧
      statusOvf (statusWord 0x2#4 (varintErr malf ovf) malf ovf) = ovf ∧
      (statusErr (statusWord 0x2#4 (varintErr malf ovf) malf ovf) = 0#4 ↔ malf = false ∧ ovf = false) := by
  decide

/-! ## A stream without its first bytes -/

theorem pack_drop (k : Nat) (st : List Byte) : pack (st.drop k) = pack st / 2 ^ (8 * k) := by
  induction k generalizing st with
  | zero => simp
  | succ k ih =>
    cases st with
    | nil => simp [pack]
    | cons b s =>
      have hb := b.isLt
      have hfirst : pack (b :: s) / 2 ^ 8 = pack s := by
        simp only [pack]
        omega
      rw [List.drop_succ_cons, ih, Nat.mul_succ, Nat.add_comm, pow_add, ← Nat.div_div_eq_div_mul, hfirst]

theorem streamValue_drop (k : Nat) (st : List Byte) : streamValue (st.drop k) = streamValue st / 2 ^ (7 * k) := by
  induction k generalizing st with
  | zero => simp
  | succ k ih =>
    cases st with
    | nil => simp [streamValue]
    | cons b s =>
      have hb := group_lt b
      have hfirst : streamValue (b :: s) / 2 ^ 7 = streamValue s := by
        simp only [streamValue]
        omega
      rw [List.drop_succ_cons, ih, Nat.mul_succ, Nat.add_comm, pow_add, ← Nat.div_div_eq_div_mul, hfirst]

/-- A stream of one byte at most has the low 7 bits of its packed form as its value. -/
theorem streamValue_of_length_le_one {st : List Byte} (h : st.length ≤ 1) : streamValue st = pack st % 2 ^ 7 := by
  match st, h with
  | [], _ => rfl
  | [b], _ =>
    have hb := group_lt b
    have hsplit := byte_eq_group_continuation b
    simp only [streamValue, pack]
    omega

/-- Only the tenth byte takes a value to 2^64: its low 7 bits count 2^63 each (R114, R118). -/
theorem overflow_iff {st : List Byte} (hlen : st.length ≤ 10) :
    2 ^ 64 ≤ streamValue st ↔ 2 ≤ pack st / 2 ^ 72 % 2 ^ 7 := by
  have htenth : streamValue st / 2 ^ 63 = pack st / 2 ^ 72 % 2 ^ 7 := by
    rw [← streamValue_drop 9, ← pack_drop 9, streamValue_of_length_le_one]
    rw [List.length_drop]
    omega
  omega

/-- The top byte of a nonzero packed form is the stream's last byte (R95). -/
theorem pack_topByte {st : List Byte} (hlast : st.getLast? ≠ some 0#8) (hne : st ≠ []) :
    pack st / 2 ^ (8 * ((bitlen (pack st) - 1) / 8)) = (st.getLast hne).toNat := by
  have hlen := length_eq_byteCount hlast
  have hpos := bitlen_pos (pack_ne_zero hlast hne)
  have htop : (bitlen (pack st) - 1) / 8 = st.length - 1 := by omega
  rw [htop, ← pack_drop, List.drop_length_sub_one hne]
  rfl

/-- A last byte of 128 or more continues, so the stream is malformed (R94). -/
theorem malformed_of_getLast {st : List Byte} (hne : st ≠ []) (hbit : 2 ^ 7 ≤ (st.getLast hne).toNat) :
    streamWellFormed st = false := by
  rw [← Bool.not_eq_true]
  intro hwf
  have hcont := continuation_of_getLast? hwf (List.getLast?_eq_some_getLast hne)
  have hsplit := byte_eq_group_continuation (st.getLast hne)
  have hgroup := group_lt (st.getLast hne)
  rw [hcont, Bool.toNat_false] at hsplit
  omega

/-- Settles O11: the overflow verdict from the tenth byte, the malformed verdict from the last. -/
theorem varintDecodeCornerVerdicts : Obligations.VarintDecodeCornerVerdicts := by
  intro s hupper
  obtain ⟨st, hpack, hlast, hlen⟩ := s.exists_operandStream hupper
  obtain ⟨hmalf, hovf, -⟩ := statusFields_varintDecode (!streamWellFormed st) (decide (2 ^ 64 ≤ streamValue st))
  refine ⟨_, exec_varintDecode_stream hupper hpack hlast, ?overflow, ?malformed⟩
  case overflow =>
    have hhi := s.opaHi.isLt
    have hlo := s.opaLo.isLt
    have htenth : pack st / 2 ^ 72 = s.opb.toNat / 2 ^ 8 := by omega
    rw [hovf, decide_eq_true_iff, overflow_iff hlen, htenth]
  case malformed =>
    rintro p rfl hpos htop
    rw [← hpack] at hpos htop
    have hne : st ≠ [] := by
      rintro rfl
      exact hpos.ne rfl
    rw [pack_topByte hlast hne] at htop
    rw [hmalf, malformed_of_getLast hne (htop.trans (Nat.mod_le _ _)), Bool.not_false]

/-! ## The round trip -/

/-- The three registers of a packed stream hold all of it (R86, R111). -/
theorem packed_registers {p : Nat} (hp : p < 2 ^ 80) :
    (BitVec.ofNat 32 (p / 2 ^ 64)).toNat < 2 ^ 16 ∧
      p = (BitVec.ofNat 32 (p / 2 ^ 64)).toNat * 2 ^ 64 + (BitVec.ofNat 32 (p / 2 ^ 32)).toNat * 2 ^ 32 +
        (BitVec.ofNat 32 p).toNat := by
  simp only [BitVec.toNat_ofNat]
  omega

/-- The two registers of a 64-bit number are read back from the number (R26, R27). -/
theorem State.opa_registers (s : State) :
    BitVec.ofNat 32 s.opa.toNat = s.opaLo ∧ BitVec.ofNat 32 (s.opa.toNat / 2 ^ 32) = s.opaHi := by
  have hlo := s.opaLo.isLt
  have hhi := s.opaHi.isLt
  rw [s.opa_toNat, ← BitVec.toNat_inj, ← BitVec.toNat_inj, BitVec.toNat_ofNat, BitVec.toNat_ofNat]
  omega

/-- Settles O12: the decoder's operand packs the encoder's stream, which is well formed and has the value `OPA`. -/
theorem varintRoundTrip : Obligations.VarintRoundTrip := by
  intro s
  have hvalue := streamValue_varintEncode s.opa
  obtain ⟨hupper, hpack⟩ := packed_registers (pack_varintEncode_lt s.opa)
  obtain ⟨hopaLo, hopaHi⟩ := s.opa_registers
  have hovf : decide (2 ^ 64 ≤ streamValue (varintEncode s.opa)) = false := by
    rw [hvalue]
    exact decide_eq_false s.opa.isLt.not_ge
  obtain ⟨-, -, herr⟩ := statusFields_varintDecode (!streamWellFormed (varintEncode s.opa))
    (decide (2 ^ 64 ≤ streamValue (varintEncode s.opa)))
  refine ⟨_, exec_varintEncode_stream s, _,
    exec_varintDecode_stream hupper hpack (varintEncode_getLast?_ne_zero s.opa), ?_, ?_, rfl, ?_⟩
  · rw [hvalue, hopaLo]
  · rw [hvalue, hopaHi]
  · exact herr.mpr ⟨by rw [streamWellFormed_varintEncode, Bool.not_true], hovf⟩

/-! ## Single operands -/

/-- Settles O13: packed 0 is the empty stream, and the encoder's stream of 0. -/
theorem varintZero : Obligations.VarintZero := by
  intro s hlo hhi
  have hopa : s.opa = 0 := by
    rw [State.opa, hlo, hhi]
    rfl
  refine ⟨?_, fun hopb => ?_⟩
  · rw [exec_varintEncode_stream, hopa]
    rfl
  · exact exec_varintDecode_stream (st := []) (by simp [hopb]) (by simp [pack, hlo, hhi, hopb]) (by decide)

/-- Settles O14 on the streams of the three operands. -/
theorem varintDecodeIsNotInjective : Obligations.VarintDecodeIsNotInjective := by
  intro s hopb hhi
  have hupper : s.opb.toNat < 2 ^ 16 := by simp [hopb]
  have hpack {n : Nat} {w : Word} (hw : n = w.toNat) :
      n = s.opb.toNat * 2 ^ 64 + s.opaHi.toNat * 2 ^ 32 + w.toNat := by
    simpa [hopb, hhi] using hw
  refine ⟨exec_varintDecode_stream (st := [0x7F#8]) hupper (hpack ?_) (by decide),
    exec_varintDecode_stream (st := [0xFF#8]) hupper (hpack ?_) (by decide),
    exec_varintDecode_stream (st := [0x02#8, 0xAC#8]) hupper (hpack ?_) (by decide)⟩ <;> rfl

end Sys2Proof.Machine
end

section
/-! The geometry converter (O15, O16, O18): a triple is `lba_to_chs` of an LBA exactly when it lies in the fixed
geometry and `chs_to_lba` gives that LBA back (spec/42_geometry.md R130), so both inverse laws of R133 are this one
fact. -/

namespace Sys2Proof.Machine

/-! ## The two conversions on numbers -/

theorem chsToLba_eq (c h n : Nat) : chsToLba c h n = (c : Int) * 1008 + (h : Int) * 63 + (n : Int) - 1 :=
  (add_sub_assoc _ _ _).symm

theorem lbaToChs_eq (l : Nat) : lbaToChs l = ⟨l / 1008, l / 63 % 16, l % 63 + 1⟩ := rfl

/-- The conversions are inverse to each other on the fixed geometry (R130, R133). -/
theorem lbaToChs_eq_iff (l : Nat) (t : Chs) :
    lbaToChs l = t ↔
      t.head ≤ 15 ∧ 1 ≤ t.sector ∧ t.sector ≤ 63 ∧ chsToLba t.cylinder t.head t.sector = (l : Int) := by
  obtain ⟨c, h, n⟩ := t
  simp only [lbaToChs_eq, Chs.mk.injEq, chsToLba_eq]
  constructor
  · rintro ⟨hc, hh, hn⟩
    omega
  · rintro ⟨hh, hlow, hhigh, hl⟩
    have htrack : l / 63 = c * 16 + h := by omega
    omega

theorem lbaToChs_cylinder_le {l : Nat} (hl : l < 2 ^ 32) : (lbaToChs l).cylinder ≤ 4260880 := by
  simp only [lbaToChs_eq]
  omega

/-! ## What the commands write -/

theorem ofNat_toNat_word (v : Word) : BitVec.ofNat 32 v.toNat = v :=
  (BitVec.ofNat_toNat 32 v).trans v.setWidth_eq

/-- What LBA_TO_CHS writes, register by register (R132). -/
theorem exec_lbaToChs_triple {s : State} {t : Chs} (hs : s.opaHi = 0) (ht : lbaToChs s.opaLo.toNat = t) :
    exec .lbaToChs s = .next
      { s with
        resaLo := BitVec.ofNat 32 t.cylinder
        resaHi := 0
        resb := BitVec.ofNat 32 t.head
        resc := BitVec.ofNat 32 t.sector
        status := 0x4001#32 } := by
  have hcyl : t.cylinder ≤ 4260880 := ht ▸ lbaToChs_cylinder_le s.opaLo.isLt
  have hhigh : t.cylinder / 2 ^ 32 = 0 := by omega
  rw [exec_lbaToChs_done s hs, ht, State.setResults_ofNat, hhigh]
  rfl

/-- What CHS_TO_LBA writes when the triple's LBA is a 32-bit word (R131). -/
theorem exec_chsToLba_word {s : State} {l : Word} (hs : s.opaHi = 0)
    (hl : chsToLba s.opaLo.toNat s.opb.toNat s.opc.toNat = (l.toNat : Int)) :
    exec .chsToLba s = .next { s with resaLo := l, resaHi := 0, resb := 0, resc := 0, status := 0x3001#32 } := by
  have hhigh : l.toNat / 2 ^ 32 = 0 := Nat.div_eq_of_lt l.isLt
  rw [exec_chsToLba_done s hs, hl, BitVec.ofInt_natCast, State.setResults_ofNat, hhigh, ofNat_toNat_word]
  rfl

/-- The two registers of `RESA` joined are the value written to it (R27). -/
theorem State.setResults_resa (s : State) (r : BitVec 64) (b c : Word) :
    (s.setResults r b c).resaHi ++ (s.setResults r b c).resaLo = r := by
  rw [State.setResults_resaHi, State.setResults_resaLo]
  exact BitVec.extractLsb'_append_extractLsb'

/-- The 32-bit registers hold the triple of a 32-bit LBA as it is (R132). -/
theorem toNat_ofNat_lbaToChs (l : Word) :
    (BitVec.ofNat 32 (lbaToChs l.toNat).cylinder).toNat = (lbaToChs l.toNat).cylinder ∧
      (BitVec.ofNat 32 (lbaToChs l.toNat).head).toNat = (lbaToChs l.toNat).head ∧
      (BitVec.ofNat 32 (lbaToChs l.toNat).sector).toNat = (lbaToChs l.toNat).sector := by
  have hcyl := lbaToChs_cylinder_le l.isLt
  obtain ⟨hhead, -, hsector, -⟩ := (lbaToChs_eq_iff l.toNat _).mp rfl
  simp only [BitVec.toNat_ofNat]
  omega

/-! ## The statements -/

/-- Settles O15: the integer is in the range of 64 bits, so the narrowing to `RESA` is exact. -/
theorem chsToLbaIsExact : Obligations.ChsToLbaIsExact := by
  intro s hs
  have hc := s.opaLo.isLt
  have hh := s.opb.isLt
  have hn := s.opc.isLt
  have hlba := chsToLba_eq s.opaLo.toNat s.opb.toNat s.opc.toNat
  refine ⟨_, exec_chsToLba_done s hs, rfl, ?_⟩
  rw [State.setStatus_resaHi, State.setStatus_resaLo, State.setResults_resa,
    BitVec.toInt_ofInt_eq_self (by decide) (by omega) (by omega), hlba]
  refine ⟨rfl, by omega, by omega, ?_⟩
  simp only [← BitVec.toNat_inj, BitVec.ofNat_eq_ofNat, BitVec.toNat_ofNat]
  omega

/-- Settles O16 with the triple of `lba_to_chs`. -/
theorem lbaToChsIsTheGeometricTriple : Obligations.LbaToChsIsTheGeometricTriple := by
  intro s hs
  obtain ⟨hhead, hlow, hhigh, hlba⟩ := (lbaToChs_eq_iff s.opaLo.toNat _).mp rfl
  rw [chsToLba_eq] at hlba
  exact ⟨_, _, _, lbaToChs_cylinder_le s.opaLo.isLt, hhead, hlow, hhigh, by omega, exec_lbaToChs_triple hs rfl⟩

/-- Settles O18: either law runs one command on what the other wrote. -/
theorem geometryInverseLaws : Obligations.GeometryInverseLaws := by
  refine ⟨fun s hs => ?ofLba, fun s hs hhead hlow hhigh hcyl => ?ofChs⟩
  case ofLba =>
    obtain ⟨hcyl, hhead, hsector⟩ := toNat_ofNat_lbaToChs s.opaLo
    obtain ⟨-, -, -, hlba⟩ := (lbaToChs_eq_iff s.opaLo.toNat _).mp rfl
    refine ⟨_, exec_lbaToChs_triple hs rfl, _, exec_chsToLba_word (l := s.opaLo) hs ?_, rfl, rfl⟩
    rw [hcyl, hhead, hsector, hlba]
  case ofChs =>
    have hlba := chsToLba_eq s.opaLo.toNat s.opb.toNat s.opc.toNat
    obtain ⟨l, hl⟩ : ∃ l : Word, chsToLba s.opaLo.toNat s.opb.toNat s.opc.toNat = (l.toNat : Int) := by
      refine ⟨BitVec.ofNat 32 (s.opaLo.toNat * 1008 + s.opb.toNat * 63 + (s.opc.toNat - 1)), ?_⟩
      rw [hlba, BitVec.toNat_ofNat]
      omega
    have htriple : lbaToChs l.toNat = ⟨s.opaLo.toNat, s.opb.toNat, s.opc.toNat⟩ :=
      (lbaToChs_eq_iff _ _).mpr ⟨hhead, hlow, hhigh, hl⟩
    exact ⟨_, exec_chsToLba_word hs hl, rfl, _, exec_lbaToChs_triple hs htriple, ofNat_toNat_word _, rfl,
      ofNat_toNat_word _, ofNat_toNat_word _⟩

end Sys2Proof.Machine
end

section
/-! Partition entries (O19 to O23, O25, O28): what each sub-function of spec/43_partition_entry.md gives, as numbers of
the bytes it reads; an entry's block is put together from these, and both decoders write that block. -/

namespace Sys2Proof.Machine

/-! ## The status byte and the type byte -/

/-- The top bit of a byte as a bound on its number. -/
theorem getLsbD_seven_iff (st : Byte) : st.getLsbD 7 = true ↔ 0x80 ≤ st.toNat := by
  rw [← BitVec.msb_eq_getLsbD_last (x := st), BitVec.msb_eq_decide, decide_eq_true_iff]

/-- The three classes as ranges of the status byte (R150). -/
theorem statusClass_eq (st : Byte) :
    statusClass st = if st.toNat = 0 then .inactive else if st.toNat < 0x80 then .invalid else .bootable := by
  simp only [statusClass, getLsbD_seven_iff, ← Nat.not_lt, ite_not, ← BitVec.toNat_inj, BitVec.toNat_ofNat,
    Nat.zero_mod]

theorem StatusClass.code_ne_three (c : StatusClass) : c.code ≠ 3#2 := by
  cases c <;> decide

/-- Settles O19, range by range. -/
theorem statusClassRanges : Obligations.StatusClassRanges := by
  intro st
  rw [statusClass_eq]
  refine ⟨fun hzero => if_pos hzero, fun ⟨hlow, hhigh⟩ => ?_, fun hlow => ?_, rfl, rfl, rfl,
    StatusClass.code_ne_three _⟩
  · rw [if_neg (by omega), if_pos (by omega)]
  · rw [if_neg (by omega), if_neg (by omega)]

theorem typeEmpty_eq (t : Byte) : typeEmpty t = decide (t.toNat = 0) := by
  rw [typeEmpty, beq_eq_decide, decide_eq_decide, ← BitVec.toNat_inj]
  rfl

/-- The one constraint on the mapping (R9). -/
theorem typeKnown_0x99 : typeKnown 0x99#8 = false := by
  simp [typeKnown, Config.knownType]

/-! ## The packed CHS bytes -/

/-- The fields of a packed triple as numbers (R153). -/
theorem chsUnpack_toNat (c0 c1 c2 : Byte) :
    (chsUnpack c0 c1 c2).head.toNat = c0.toNat ∧ (chsUnpack c0 c1 c2).sect.toNat = c1.toNat % 64 ∧
      (chsUnpack c0 c1 c2).cyl.toNat = c1.toNat / 64 * 256 + c2.toNat := by
  have := c1.isLt
  refine ⟨rfl, ?_, ?_⟩ <;>
    simp only [chsUnpack, toNat_append_add, BitVec.extractLsb'_toNat, Nat.shiftRight_eq_div_pow] <;> omega

/-- Settles O20: the fields as numbers, and the example of R153 by evaluation. -/
theorem chsUnpackFields : Obligations.ChsUnpackFields := by
  intro c0 c1 c2
  obtain ⟨hhead, hsector, hcylinder⟩ := chsUnpack_toNat c0 c1 c2
  exact ⟨hhead, hsector, hcylinder, rfl⟩

/-- A CHS register holds the triple it is written from (R34, R90). -/
theorem chsHeld_chsWord (c0 c1 c2 : Byte) : ChsHeld c0 c1 c2 (chsWord (chsUnpack c0 c1 c2)) := by
  obtain ⟨hhead, hsector, hcylinder⟩ := chsUnpack_toNat c0 c1 c2
  have hlegal := chsWordLegal_chsWord (chsUnpack c0 c1 c2)
  have := c0.isLt
  have := c1.isLt
  have := c2.isLt
  have hword := chsWord_toNat (chsUnpack c0 c1 c2)
  rw [hhead, hsector, hcylinder] at hword
  rw [chsWordLegal, Bool.and_eq_true, beq_iff_eq, beq_iff_eq] at hlegal
  refine ⟨?_, ?_, ?_, hlegal⟩ <;>
    rw [BitVec.extractLsb'_toNat, hword, Nat.shiftRight_eq_div_pow] <;> omega

/-! ## The size and its unit -/

theorem sizeBytes_lt (cnt : Word) : sizeBytes cnt < 2 ^ 41 :=
  Nat.mul_lt_mul_of_pos_right cnt.isLt (by decide)

/-- The thresholds rise, so the unit's own threshold decides for those below it. -/
theorem unitHeld_of_bounds {b u : Nat} (hu : u ≤ 4) (hnext : u < 4 → b < 1024 ^ (u + 1))
    (hown : u ≠ 0 → 1024 ^ u ≤ b) : UnitHeld b u :=
  ⟨hu, hnext, fun _ hv => (Nat.pow_le_pow_right (by decide) hv).trans (hown (Nat.ne_zero_of_lt hv))⟩

/-- `size_unit` takes the least unit whose next threshold is above the size (R156). -/
theorem unitHeld_sizeUnit (b : Nat) : UnitHeld b (sizeUnit b).index := by
  unfold sizeUnit
  split_ifs with hb hkib hmib hgib
  · exact unitHeld_of_bounds (by decide) (fun _ => hb) (absurd rfl)
  · exact unitHeld_of_bounds (by decide) (fun _ => hkib) (fun _ => Nat.le_of_not_lt hb)
  · exact unitHeld_of_bounds (by decide) (fun _ => hmib) (fun _ => Nat.le_of_not_lt hkib)
  · exact unitHeld_of_bounds (by decide) (fun _ => hgib) (fun _ => Nat.le_of_not_lt hmib)
  · exact unitHeld_of_bounds le_rfl (fun h => absurd h (lt_irrefl 4)) (fun _ => Nat.le_of_not_lt hgib)

theorem SizeUnit.index_lt_four {u : SizeUnit} (hu : u ≠ .tib) : u.index < 4 := by
  cases u with
  | tib => exact absurd rfl hu
  | _ => decide

theorem scaledWhole_eq (b : Nat) (u : SizeUnit) : scaledWhole b u = b / 1024 ^ u.index := by
  rw [scaledWhole, Nat.shiftRight_eq_div_pow, pow_mul]
  rfl

theorem scaledFraction_eq (b : Nat) (u : SizeUnit) : scaledFraction b u = b % 1024 ^ u.index := by
  rw [scaledFraction, pow_mul]
  rfl

/-- Settles O21: the parts are quotient and remainder by the unit, and the unit's next threshold bounds the quotient. -/
theorem scaledSizeIsExact : Obligations.ScaledSizeIsExact := by
  intro cnt b u
  have hbytes : b < 2 ^ 41 := sizeBytes_lt cnt
  obtain ⟨-, hnext, -⟩ : UnitHeld b u.index := unitHeld_sizeUnit b
  rw [scaledWhole_eq, scaledFraction_eq]
  refine ⟨rfl, hbytes, unitHeld_sizeUnit b, (Nat.div_add_mod' _ _).symm, Nat.mod_lt _ (by positivity), fun hu => ?_,
    fun hu => ?_⟩
  · exact Nat.div_lt_of_lt_mul (pow_succ 1024 u.index ▸ hnext (SizeUnit.index_lt_four hu))
  · rw [hu]
    exact Nat.div_lt_of_lt_mul hbytes

/-! ## The block of an entry -/

/-- The block of an entry holds the entry, whatever its bytes (R158, R159, R164). -/
theorem entryHeld_entryAt (s : State) (a : Nat) :
    EntryHeld (fun j => s.bufByte (a + j)) (entryBlock (s.entryAt a)) := by
  have hsclass : (s.entryAt a).sclass = statusClass (s.bufByte (a + 0)) := rfl
  obtain ⟨hstatus, hclass, hlow, htype, hhigh⟩ := infoWord_fields (s.entryAt a)
  obtain ⟨hempty, hknown⟩ := infoWord_flags (s.entryAt a)
  have hunit := unitHeld_sizeUnit (sizeBytes (s.entryAt a).sectorCount)
  exact {
    statusByte := hstatus
    statusCode := by
      refine (congrArg BitVec.toNat hclass).trans ?_
      rw [hsclass, statusClass_eq]
      split_ifs <;> rfl
    emptyFlag := hempty.trans (typeEmpty_eq _)
    knownFlag := hknown
    typeCode := htype
    infoReserved := ⟨hlow, hhigh⟩
    startChs := chsHeld_chsWord ..
    endChs := chsHeld_chsWord ..
    lbaStart := le32_toNat ..
    sectorCount := le32_toNat ..
    byteSize := sizeBytes_halves _
    sizeUnit := (SizeUnit.toNat_index _).symm ▸ hunit }

/-- Bits 9:0 of `ENT_INFO` are `SCLASS` above `STATUS_BYTE`, both given by the status byte alone (R33). -/
theorem infoWord_low (r : EntryRecord) : (infoWord r).extractLsb' 0 10 = r.sclass.code ++ r.status := by
  have := r.status.isLt
  have := r.sclass.code.isLt
  rw [← BitVec.toNat_inj, BitVec.extractLsb'_toNat, infoWord_toNat, toNat_append_add, Nat.shiftRight_eq_div_pow]
  omega

/-! ## What the decoders leave -/

/-- What ENTRY_DECODE writes, register by register (R160, R161). -/
theorem exec_entryDecode_block {s : State} (hs : s.inLen = 16) :
    exec .entryDecode s = .next
      { s with ent := { s.ent with e0 := entryBlock (s.entryAt 0) }, status := 0x5001#32 } :=
  exec_entryDecode_done s hs

/-- Block `ENT[k]` after MBR_DECODE is that of slot `k` (R181). -/
theorem exec_mbrDecode_get {s : State} (hs : s.inLen = 512) :
    ∃ t, exec .mbrDecode s = .next t ∧ ∀ k, t.ent.get k = entryBlock (s.entryAt (slotOffset k)) := by
  refine ⟨_, exec_mbrDecode_done s hs, fun k => ?_⟩
  fin_cases k <;> rfl

/-- Settles O23: the early error of either decoder, as the whole `STATUS` word. -/
theorem decodersCheckTheLength : Obligations.DecodersCheckTheLength :=
  fun s => ⟨exec_entryDecode_length s, exec_mbrDecode_length s⟩

/-- Settles O22 with the block of the record at offset 0. -/
theorem entryDecodeFillsBlockZero : Obligations.EntryDecodeFillsBlockZero := by
  intro s hs
  have hheld := entryHeld_entryAt s 0
  simp only [Nat.zero_add] at hheld
  exact ⟨_, hheld, exec_entryDecode_block hs⟩

/-- Equal bytes at two places make equal records (R158). -/
theorem entryAt_eq_of_bytes {s u : State} {a b : Nat} (h : ∀ j < 16, u.bufByte (b + j) = s.bufByte (a + j)) :
    u.entryAt b = s.entryAt a :=
  congrArg decodeEntry (funext fun j => h j j.isLt)

/-- Settles O25: both blocks are that of the same 16 bytes. -/
theorem mbrSlotsAgreeWithEntryDecode : Obligations.MbrSlotsAgreeWithEntryDecode := by
  intro s u k hs hu hbytes
  obtain ⟨t, ht, hblock⟩ := exec_mbrDecode_get hs
  have hrecord : u.entryAt 0 = s.entryAt (slotOffset k) :=
    entryAt_eq_of_bytes fun j hj => (congrArg u.bufByte j.zero_add).trans (hbytes j hj)
  refine ⟨t, _, ht, exec_entryDecode_block hu, (hblock k).trans ?_⟩
  rw [← hrecord]
  rfl

/-- Entries that differ in byte 4 alone have the same record but for what the type byte gives (R162, R163). -/
theorem decodeEntry_of_eq_off_four {e f : Fin 16 → Byte} (h : ∀ j, j ≠ 4 → f j = e j) :
    decodeEntry f =
      { decodeEntry e with type := f 4, known := typeKnown (f 4), empty := typeEmpty (f 4) } := by
  simp [decodeEntry, h]

/-- Settles O28: the two records differ in the type byte's fields alone, and these stand in `ENT_INFO` above bit 9. -/
theorem entryTypeIsNeverAnError : Obligations.EntryTypeIsNeverAnError := by
  intro s u hs hu hbytes
  have hrecord : u.entryAt 0 =
      { s.entryAt 0 with
        type := u.bufByte 4, known := typeKnown (u.bufByte 4), empty := typeEmpty (u.bufByte 4) } :=
    decodeEntry_of_eq_off_four fun j hj => by simpa using hbytes j j.isLt (Fin.val_ne_of_ne hj)
  refine ⟨_, _, exec_entryDecode_block hs, exec_entryDecode_block hu, rfl, rfl, ?low, ?others, fun h99 => ?known⟩
  case low =>
    show (infoWord (u.entryAt 0)).extractLsb' 0 10 = (infoWord (s.entryAt 0)).extractLsb' 0 10
    rw [infoWord_low, infoWord_low, hrecord]
  case others =>
    show { entryBlock (u.entryAt 0) with info := 0 } = { entryBlock (s.entryAt 0) with info := 0 }
    rw [hrecord]
    rfl
  case known =>
    have hknown : (infoWord (s.entryAt 0)).getLsbD 11 = typeKnown (s.bufByte 4) := (infoWord_flags _).2
    exact hknown.trans (h99 ▸ typeKnown_0x99)

end Sys2Proof.Machine
end

section
/-! The sector decoder (O24, O26, O27): MBR_DECODE reads the signature's four bytes and the four slots of
spec/44_mbr.md R180 to R183, and what it writes is read off these. -/

namespace Sys2Proof.Machine

/-! ## What MBR_DECODE writes and from where -/

/-- What MBR_DECODE writes, register by register (R181, R187). -/
theorem exec_mbrDecode_registers {s : State} (hs : s.inLen = 512) :
    exec .mbrDecode s = .next
      { s with
        sig := s.diskSignature
        ent :=
          { e0 := entryBlock (s.entryAt (slotOffset 0))
            e1 := entryBlock (s.entryAt (slotOffset 1))
            e2 := entryBlock (s.entryAt (slotOffset 2))
            e3 := entryBlock (s.entryAt (slotOffset 3)) }
        status := 0x6001#32 } :=
  exec_mbrDecode_done s hs

/-- The four slots lie in the partition table (R183). -/
theorem slotOffset_add_mem_table (k : Fin 4) {j : Nat} (hj : j < 16) :
    446 ≤ slotOffset k + j ∧ slotOffset k + j ≤ 509 := by
  have hk := k.isLt
  simp only [slotOffset, Config.tableOffset, Config.entryBytes]
  omega

/-- The disk signature is read from its four bytes alone (R182). -/
theorem diskSignature_eq_of_bytes {s u : State} (h : ∀ a, 440 ≤ a → a ≤ 443 → u.bufByte a = s.bufByte a) :
    u.diskSignature = s.diskSignature := by
  have h0 := h 440 (by decide) (by decide)
  have h1 := h 441 (by decide) (by decide)
  have h2 := h 442 (by decide) (by decide)
  have h3 := h 443 (by decide) (by decide)
  simp only [State.diskSignature, Config.sigOffset, h0, h1, h2, h3]

/-! ## Every sector -/

/-- Settles O24: the blocks are those of the entries at 446, 462, 478 and 494, the offsets of the four slots. -/
theorem mbrDecodeFillsSignatureAndSlots : Obligations.MbrDecodeFillsSignatureAndSlots :=
  fun s hs => ⟨_, _, _, _, _, le32_toNat .., entryHeld_entryAt s 446, entryHeld_entryAt s 462,
    entryHeld_entryAt s 478, entryHeld_entryAt s 494, exec_mbrDecode_registers hs⟩

/-- Settles O26: the signature and the four records are the same of both sectors; with a wrong length no byte is read. -/
theorem mbrDecodeIgnoresTheOtherBytes : Obligations.MbrDecodeIgnoresTheOtherBytes := by
  intro s m h
  by_cases hlen : s.inLen = 512
  · have hsig : { s with inBuf := m }.diskSignature = s.diskSignature :=
      diskSignature_eq_of_bytes fun a hlow hhigh => h a (.inl ⟨hlow, hhigh⟩)
    have hrecord : ∀ k, { s with inBuf := m }.entryAt (slotOffset k) = s.entryAt (slotOffset k) :=
      fun k => entryAt_eq_of_bytes fun j hj => h _ (.inr (slotOffset_add_mem_table k hj))
    refine ⟨_, exec_mbrDecode_registers hlen, ?_⟩
    rw [exec_mbrDecode_registers (s := { s with inBuf := m }) hlen, hsig]
    simp only [hrecord]
  · exact ⟨_, exec_mbrDecode_length s hlen, exec_mbrDecode_length { s with inBuf := m } hlen⟩

/-! ## The all-zero sector -/

theorem le32_zero : le32 0#8 0#8 0#8 0#8 = 0#32 := by
  decide

/-- The record of 16 zero bytes: an empty entry whose one open field is the mapping's verdict on type 0 (R160, R186). -/
theorem decodeEntry_zero :
    decodeEntry (fun _ => 0#8) =
      { status := 0, sclass := .inactive, type := 0, known := Config.knownType 0x00#8, empty := true,
        startChs := ⟨0, 0, 0⟩, endChs := ⟨0, 0, 0⟩, lbaStart := 0, sectorCount := 0, bytes := 0, unit := .b } := by
  have hbytes : sizeBytes 0#32 = 0 := rfl
  simp only [decodeEntry, le32_zero, hbytes]
  rfl

/-- The block of 16 zero bytes, for either verdict (R159, R186). -/
theorem entryBlock_zero :
    entryBlock (decodeEntry fun _ => 0#8) =
      { EntBlock.zero with info := if Config.knownType 0x00#8 then 0x00000C00#32 else 0x00000400#32 } := by
  rw [decodeEntry_zero]
  cases Config.knownType 0x00#8 with
  | false => rfl
  | true => rfl

/-- Settles O27: the signature's bytes and the bytes of every slot are 0. -/
theorem allZeroSector : Obligations.AllZeroSector := by
  intro s hs hzero
  have hsig : s.diskSignature = 0 := by
    rw [State.diskSignature, hzero _ (by decide), hzero _ (by decide), hzero _ (by decide), hzero _ (by decide),
      le32_zero]
    rfl
  have hrecord : ∀ k, s.entryAt (slotOffset k) = decodeEntry fun _ => 0#8 := fun k =>
    congrArg decodeEntry <| funext fun j =>
      hzero _ ((slotOffset_add_mem_table k j.isLt).2.trans_lt (by decide))
  refine ⟨_, rfl, ?_⟩
  rw [exec_mbrDecode_registers hs, hsig]
  simp only [hrecord, entryBlock_zero]

end Sys2Proof.Machine
end

section
/-! Errors (O29, O31) and the next state of every step (O46): the code in `STATUS.ERR` is the one its command raised or
recorded (spec/60_exceptions.md R202, R203), an early one goes with no results (R205), and no step is without an outcome
(R219). -/

namespace Sys2Proof.Machine

/-! ## The error code of an ending -/

/-- `ERR` of a packed `STATUS` word is the code it was packed from (R203). -/
theorem statusErr_statusWord (op : BitVec 4) (e : ErrCode) (malf ovf : Bool) :
    statusErr (statusWord op e malf ovf) = e.code := by
  revert op malf ovf
  cases e <;> decide

theorem varintErr_mem_recordable : ∀ malf ovf : Bool, varintErr malf ovf ∈ recordable .varintDecode := by
  decide

/-- The two errors that VARINT_DECODE records after its results (R206) are no early ones. -/
theorem varintErr_not_early : ∀ malf ovf : Bool, earlyError (varintErr malf ovf).code = false := by
  decide

/-- A command ends with a code that R202 lists for it, and with an early one writes no result (R205). -/
theorem EndsIn.recorded {i : Instr} {g : Ending} (h : EndsIn i g) :
    ∃ e ∈ recordable i, statusErr g.status = e.code ∧ (earlyError e.code = true → g.results = .none) := by
  cases h with
  | early hrec hearly => exact ⟨_, hrec, statusErr_statusWord _ _ _ _, fun _ => rfl⟩
  | varintDecode malf ovf hc =>
    exact ⟨_, varintErr_mem_recordable malf ovf, statusErr_statusWord _ _ _ _,
      fun hearly => absurd hearly (Bool.eq_false_iff.mp (varintErr_not_early malf ovf))⟩
  | varintEncode | chsToLba | lbaToChs | entryDecode | mbrDecode =>
    exact ⟨.none, List.mem_cons_self, statusErr_statusWord _ _ _ _, fun hearly => nomatch hearly⟩

/-! ## Each listed code is recorded -/

/-- Some run of the command ends with this code. -/
def Records (i : Instr) (e : ErrCode) : Prop :=
  ∃ s t, exec i s = .next t ∧ statusErr t.status = e.code

theorem Records.of_exec {i : Instr} {e : ErrCode} {s u : State} {op : BitVec 4} {malf ovf : Bool}
    (h : exec i s = .next (u.setStatus op e malf ovf)) : Records i e :=
  ⟨s, _, h, statusErr_statusWord op e malf ovf⟩

/-- VARINT_DECODE records the verdicts of its operand (R204). -/
theorem Records.varintDecode (s : State) {e : ErrCode} (hupper : s.opbUpper = 0#16)
    (he : varintErr (!(varintDecode s.packedOperand.toNat).wf)
      (decide (2 ^ 64 ≤ (varintDecode s.packedOperand.toNat).value)) = e) :
    Records .varintDecode e :=
  he ▸ .of_exec (exec_varintDecode_done s hupper)

/-- Every code that R202 lists for a command is recorded from some state: a malformed stream is one byte that continues,
an overflow the ten-byte stream of 2^64. -/
theorem records_of_mem_recordable {i : Instr} {e : ErrCode} (h : e ∈ recordable i) : Records i e := by
  cases i with
  | varintEncode =>
    obtain rfl := List.mem_singleton.mp h
    exact .of_exec (exec_varintEncode State.reset)
  | varintDecode =>
    simp only [recordable, List.mem_cons, List.not_mem_nil, or_false] at h
    obtain rfl | rfl | rfl | rfl := h
    · exact .varintDecode State.reset (by decide) (by decide)
    · exact .of_exec (exec_varintDecode_range { State.reset with opb := 0x10000 } (by decide))
    · exact .varintDecode { State.reset with opaLo := 0x80 } (by decide) (by decide)
    · exact .varintDecode { State.reset with opaLo := 0x80808080, opaHi := 0x80808080, opb := 0x0280 } (by decide)
        (by decide)
  | chsToLba =>
    obtain rfl | rfl := List.mem_pair.mp h
    · exact .of_exec (exec_chsToLba_done State.reset rfl)
    · exact .of_exec (exec_chsToLba_range { State.reset with opaHi := 1 } (by decide))
  | lbaToChs =>
    obtain rfl | rfl := List.mem_pair.mp h
    · exact .of_exec (exec_lbaToChs_done State.reset rfl)
    · exact .of_exec (exec_lbaToChs_range { State.reset with opaHi := 1 } (by decide))
  | entryDecode =>
    obtain rfl | rfl := List.mem_pair.mp h
    · exact .of_exec (exec_entryDecode_done { State.reset with inLen := 16 } rfl)
    · exact .of_exec (exec_entryDecode_length State.reset (by decide))
  | mbrDecode =>
    obtain rfl | rfl := List.mem_pair.mp h
    · exact .of_exec (exec_mbrDecode_done { State.reset with inLen := 512 } rfl)
    · exact .of_exec (exec_mbrDecode_length State.reset (by decide))

/-- Settles O29: an ending carries a listed code, and each listed code has a state that records it. -/
theorem recordedErrorCodes : Obligations.RecordedErrorCodes := by
  refine ⟨fun i c => ⟨?listed, ?recorded⟩, fun i s => ?next, fun w e s hw => ?illegal⟩
  case listed =>
    rintro ⟨e, he, rfl⟩
    exact records_of_mem_recordable he
  case recorded =>
    rintro ⟨s, t, ht, rfl⟩
    obtain ⟨g, hends, hexec⟩ := exec_ending i s
    obtain ⟨e, he, herr, -⟩ := hends.recorded
    cases (hexec s (sameInputs_refl s)).symm.trans ht
    exact ⟨e, he, herr.symm⟩
  case next =>
    obtain ⟨g, -, hexec⟩ := exec_ending i s
    exact ⟨g.apply s, hexec s (sameInputs_refl s)⟩
  case illegal => exact ⟨_, runCommand_error hw s, statusErr_statusWord _ _ _ _⟩

/-! ## The early errors -/

/-- A legal `STATUS` with an early error has `VALID` = 0 (R203). -/
theorem statusValid_of_earlyError {w : Word} (hlegal : statusLegal w = true)
    (hearly : earlyError (statusErr w) = true) : statusValid w = false := by
  have hvalid : statusValid w = (statusErr w == 0#4) := by
    simp only [statusLegal, Bool.and_eq_true, beq_iff_eq] at hlegal
    obtain ⟨⟨⟨⟨⟨-, hvalid⟩, -⟩, -⟩, -⟩, -⟩ := hlegal
    exact hvalid
  rw [hvalid, beq_eq_false_iff_ne]
  intro hzero
  rw [hzero] at hearly
  cases hearly

/-- Every `CMD` write, of a command word or of an illegal one, ends with a legal `STATUS`, and with an early error in it
writes no result (R205). -/
theorem runCommand_precise (w : Word) (s : State) : ∃ g : Ending, runCommand w s = .next (g.apply s) ∧
    statusLegal g.status = true ∧ (earlyError (statusErr g.status) = true → g.results = .none) := by
  cases hw : decode w with
  | ok i =>
    obtain ⟨g, hends, hexec⟩ := exec_ending i s
    obtain ⟨e, -, herr, hnone⟩ := hends.recorded
    exact ⟨g, (runCommand_ok hw s).trans (hexec s (sameInputs_refl s)), hends.legal.status, herr ▸ hnone⟩
  | error e =>
    exact ⟨⟨.none, statusWord (opField w) .illegalCommand false false⟩, runCommand_error hw s,
      (statusLegal_illegalCommand (opField w)).1, fun _ => rfl⟩

/-- Settles O31: with no result to write, the ending is the `STATUS` write alone. -/
theorem earlyErrorsWriteStatusOnly : Obligations.EarlyErrorsWriteStatusOnly := by
  intro w s
  obtain ⟨⟨results, status⟩, hrun, hlegal, hnone⟩ := runCommand_precise w s
  refine ⟨_, hrun, fun hearly => ⟨?frame, statusValid_of_earlyError hlegal hearly⟩⟩
  obtain rfl : results = .none := hnone hearly
  rfl

/-! ## Every step -/

/-- Settles O46, by the cases of what a step can do: one that takes an access has a next state by `step_access`. -/
theorem everyStepHasAnOutcomeOfTheRules : Obligations.EveryStepHasAnOutcomeOfTheRules := by
  intro s
  obtain ⟨-, hidle⟩ | ⟨rest, -, hreset⟩ | ⟨a, rest, hs, -⟩ := step_cases s
  · exact ⟨s, hidle⟩
  · exact ⟨_, hreset⟩
  · obtain ⟨t, hstep, -⟩ := step_access hs
    exact ⟨t, hstep⟩

end Sys2Proof.Machine
end

section
/-! The state after reset (O49) and the length register across commands (O35): a register that the host alone writes keeps
a value fit for one decoder and wrong for the other (spec/70_reset_and_hazards.md R230, R237). -/

namespace Sys2Proof.Machine

/-! ## Reset -/

theorem State.reset_ent_get (k : Fin 4) : State.reset.ent.get k = EntBlock.zero := by
  fin_cases k <;> rfl

/-- A byte that nothing has written reads as its draw (R22, R230). -/
theorem State.bufByte_of_unwritten {s : State} {a : Nat} (h : s.inBuf.read a = none) :
    s.bufByte a = Config.inBufDraw s.drawEpoch a := by
  simp only [State.bufByte, h]

/-- Settles O49: the registers field by field, and the empty buffer lists no byte. -/
theorem resetLeavesEveryRegisterZero : Obligations.ResetLeavesEveryRegisterZero :=
  ⟨State.reset_inLen, State.reset_cmd, State.reset_status, State.reset_opaLo, State.reset_opaHi, State.reset_opb,
    State.reset_opc, State.reset_resaLo, State.reset_resaHi, State.reset_resb, State.reset_resc, State.reset_sig,
    State.reset_ent_get, State.reset_hostFault, fun _ => State.bufByte_of_unwritten rfl⟩

/-! ## The length register -/

/-- However a command ends, `IN_LEN` is among the inputs it keeps (R23, R28). -/
theorem exec_keeps_inLen (i : Instr) (s : State) : ∃ t, exec i s = .next t ∧ t.inLen = s.inLen := by
  obtain ⟨g, -, hexec⟩ := exec_ending i s
  obtain ⟨-, hlen, -⟩ := g.sameInputs_apply s
  exact ⟨g.apply s, hexec s (sameInputs_refl s), hlen⟩

/-- Settles O35: ENTRY_DECODE leaves `IN_LEN` at 16, which is not 512; written to 512 it passes the check of
MBR_DECODE. -/
theorem staleLengthFailsTheNextMbrDecode : Obligations.StaleLengthFailsTheNextMbrDecode := by
  refine ⟨exec_keeps_inLen, fun s hs => ?_⟩
  obtain ⟨t, hentry, hkept⟩ := exec_keeps_inLen .entryDecode s
  have hstatus : t.status = 0x5001#32 :=
    of_exec_next (P := fun u => u.status = 0x5001#32) (exec_entryDecode_block hs) rfl hentry
  have hstale : t.inLen ≠ 512 := by
    rw [hkept, hs]
    decide
  exact ⟨t, hentry, hstatus, exec_mbrDecode_length t hstale, _, exec_mbrDecode_registers rfl, rfl⟩

end Sys2Proof.Machine
end
